-- ==== Sys2Proof/Word.lean ====
section
/-! DEFINITION. The fixed widths of the QSCE's values (spec 00 R10, R11): every value is an unsigned bit vector. -/

namespace Sys2Proof

/-- A 32-bit value: a command word, the generator state, a register read (00 R10, R11). -/
abbrev Word := BitVec 32

/-- A 16-bit value: a checksum half, a method constant (00 R10). -/
abbrev Half := BitVec 16

/-- An 8-bit value: a payload byte (00 R10). -/
abbrev Byte := BitVec 8

end Sys2Proof
end

