-- ==== Sys2Proof/Syntax.lean ====
section
/-! DEFINITION. The commands of the QSCE as data: one constructor per row of spec/opcode_table.json (30 R98). -/

namespace Sys2Proof

/-- A command with its operands, at the widths of 30 R97. -/
inductive Instr where
  /-- NOP (43 R210). -/
  | nop
  /-- SRST, software reset (43 R212). -/
  | srst
  /-- SEEDLD M, RAW (40 R140). M is 3 bits wide; 5 to 7 encode but raise BAD_METHOD (30 R106, 40 R141). -/
  | seedld (m : BitVec 3) (raw : Word)
  /-- NEXT, one generator draw (40 R145). -/
  | nextDraw
  /-- DBYTE, decrypt one byte (41 R160). -/
  | dbyte (b : Byte)
  /-- EBYTE, encrypt one byte (41 R170). -/
  | ebyte (b : Byte)
  /-- CHECK A, B (42 R190). -/
  | check (a b : Half)
  /-- SEAL (42 R195). -/
  | sealTrial
  /-- WCTL E (43 R211). -/
  | wctl (e : BitVec 2)
  deriving DecidableEq, Repr

/-- The nine operations that the OP field selects (30 R98). -/
inductive Opcode where
  | nop | srst | seedld | nextDraw | dbyte | ebyte | check | sealTrial | wctl
  deriving DecidableEq, Repr

/-- A command as it stands on the port: word0, and word1 where there is one (00 R19). -/
structure Command where
  word0 : Word
  word1 : Option Word
  deriving DecidableEq, Repr

end Sys2Proof
end

