-- ==== Sys2Proof/WellFormed.lean ====
section
/-! DEFINITION. When a command on the port is well formed, said from the format patterns of 30 R91 field by field (the
decoder works from the reserved-bit masks of 30 R103 instead, so the two check each other). An `Instr` needs no check of
its own: each operand has its field's width in its type, so every `Instr` has an encoding (30 R97). -/

namespace Sys2Proof

/-- Bits 31:28 name one of the nine commands (30 R98). -/
def Command.opcodeDefined (c : Command) : Bool :=
  (c.word0.extractLsb' 28 4).toNat ≤ 8

/-- How many low bits of word0 its format gives to operands: B has 8, S has 3, C has 2, N and W none (30 R91). -/
def Command.operandBits (c : Command) : Nat :=
  match (c.word0.extractLsb' 28 4).toNat with
  | 2 => 3
  | 4 => 8
  | 5 => 8
  | 8 => 2
  | _ => 0

/-- Every bit between the operand field and the OP field is zero (30 R91 to R96). -/
def Command.reservedClear (c : Command) : Bool :=
  c.word0.toNat % 2 ^ 28 < 2 ^ c.operandBits

/-- A word1 is there exactly when the OP field is 0x2 or 0x6 (30 R99). -/
def Command.lengthRight (c : Command) : Bool :=
  c.word1.isSome == (c.word0.extractLsb' 28 4 == 2#4 || c.word0.extractLsb' 28 4 == 6#4)

/-- A command that stands for an instruction: all three checks hold. -/
def Command.wellFormed (c : Command) : Bool :=
  c.opcodeDefined && c.reservedClear && c.lengthRight

end Sys2Proof
end

