-- ==== Sys2Proof/Decode.lean ====
section
/-! DEFINITION. The decoder and the encoder of command words (spec 30). Decoding is total and refuses by name; the port
turns a refusal of a complete command into the error the spec names (30 R102). -/

namespace Sys2Proof

/-- Why a complete command stands for no instruction (30 R102, first and second check). -/
inductive EncodingError where
  /-- word0[31:28] is in 0x9 to 0xF (ILLEGAL_OPCODE). -/
  | illegalOpcode
  /-- A valid OP with a reserved bit of word0 set (RESERVED_BITS). -/
  | reservedBits
  deriving DecidableEq, Repr

/-- Why a list of words does not begin with an instruction. -/
inductive DecodeReject where
  /-- The words end before the command does. -/
  | incomplete
  /-- The first command is complete and stands for no instruction. -/
  | malformed (e : EncodingError)
  deriving DecidableEq, Repr

/-- The OP field, word0[31:28] (30 R90). -/
def opField (word0 : Word) : BitVec 4 := word0.extractLsb' 28 4

/-- The opcode map (30 R98); the values 0x9 to 0xF are reserved (30 R104). -/
def opcodeOf (op : BitVec 4) : Option Opcode :=
  match op.toNat with
  | 0 => some .nop
  | 1 => some .srst
  | 2 => some .seedld
  | 3 => some .nextDraw
  | 4 => some .dbyte
  | 5 => some .ebyte
  | 6 => some .check
  | 7 => some .sealTrial
  | 8 => some .wctl
  | _ => none

/-- A two-word command has OP 0x2 or 0x6; nothing else counts for the length (30 R99). -/
def isTwoWord (word0 : Word) : Bool := opField word0 == 2#4 || opField word0 == 6#4

/-- RSV(OP), the reserved bits of word0 (30 R103). -/
def reservedMask : Opcode → Word
  | .nop | .srst | .nextDraw | .check | .sealTrial => 0x0FFFFFFF#32
  | .seedld => 0x0FFFFFF8#32
  | .dbyte | .ebyte => 0x0FFFFF00#32
  | .wctl => 0x0FFFFFFC#32

/-- The operands of each command, cut from its words (30 R92 to R97). `word1` is not looked at for a one-word command. -/
def operandsOf (op : Opcode) (word0 word1 : Word) : Instr :=
  match op with
  | .nop => .nop
  | .srst => .srst
  | .seedld => .seedld (word0.extractLsb' 0 3) word1
  | .nextDraw => .nextDraw
  | .dbyte => .dbyte (word0.extractLsb' 0 8)
  | .ebyte => .ebyte (word0.extractLsb' 0 8)
  | .check => .check (word1.extractLsb' 16 16) (word1.extractLsb' 0 16)
  | .sealTrial => .sealTrial
  | .wctl => .wctl (word0.extractLsb' 0 2)

/-- One complete command to its instruction, with the checks in the order of 30 R102. -/
def decodeCommand (word0 word1 : Word) : Except EncodingError Instr :=
  match opcodeOf (opField word0) with
  | none => .error .illegalOpcode
  | some op =>
    if word0 &&& reservedMask op = 0#32 then .ok (operandsOf op word0 word1) else .error .reservedBits

/-- `decodeCommand`, keeping the words that follow the command. -/
def decodeThen (word0 word1 : Word) (rest : List Word) : Except DecodeReject (Instr × List Word) :=
  match decodeCommand word0 word1 with
  | .ok i => .ok (i, rest)
  | .error e => .error (.malformed e)

/-- The first instruction of a word stream, and the words after it. A malformed two-word command still takes its word1
(30 R99). -/
def decode : List Word → Except DecodeReject (Instr × List Word)
  | [] => .error .incomplete
  | word0 :: rest =>
    if isTwoWord word0 then
      match rest with
      | [] => .error .incomplete
      | word1 :: rest' => decodeThen word0 word1 rest'
    else decodeThen word0 0#32 rest

/-- The operation an instruction belongs to. -/
def Instr.opcode : Instr → Opcode
  | .nop => .nop
  | .srst => .srst
  | .seedld _ _ => .seedld
  | .nextDraw => .nextDraw
  | .dbyte _ => .dbyte
  | .ebyte _ => .ebyte
  | .check _ _ => .check
  | .sealTrial => .sealTrial
  | .wctl _ => .wctl

/-- Word0 of each command: the match column of 30 R98, with the operand in its low bits. -/
def encodeWord0 : Instr → Word
  | .nop => 0x00000000#32
  | .srst => 0x10000000#32
  | .seedld m _ => 0x20000000#32 ||| m.setWidth 32
  | .nextDraw => 0x30000000#32
  | .dbyte b => 0x40000000#32 ||| b.setWidth 32
  | .ebyte b => 0x50000000#32 ||| b.setWidth 32
  | .check _ _ => 0x60000000#32
  | .sealTrial => 0x70000000#32
  | .wctl e => 0x80000000#32 ||| e.setWidth 32

/-- Word1 of a two-word command: RAW for SEEDLD (30 R94), A ++ B for CHECK (30 R95). -/
def encodeWord1 : Instr → Option Word
  | .seedld _ raw => some raw
  | .check a b => some (a ++ b)
  | .nop | .srst | .nextDraw | .dbyte _ | .ebyte _ | .sealTrial | .wctl _ => none

/-- The command of an instruction. -/
def encodeCommand (i : Instr) : Command := ⟨encodeWord0 i, encodeWord1 i⟩

/-- The words of an instruction, in the order the host sends them. -/
def encode (i : Instr) : List Word := encodeWord0 i :: (encodeWord1 i).toList

/-- One row of the opcode map (30 R98): word0 selects it when `word0 AND mask = match AND mask`. -/
structure OpcodeRow where
  opcode    : Opcode
  matchBits : Word
  mask      : Word
  words     : Nat
  deriving DecidableEq, Repr

/-- The opcode map of 30 R98, row by row. -/
def opcodeRow : Opcode → OpcodeRow
  | .nop    => ⟨.nop,    0x00000000#32, 0xFFFFFFFF#32, 1⟩
  | .srst   => ⟨.srst,   0x10000000#32, 0xFFFFFFFF#32, 1⟩
  | .seedld => ⟨.seedld, 0x20000000#32, 0xFFFFFFF8#32, 2⟩
  | .nextDraw   => ⟨.nextDraw,   0x30000000#32, 0xFFFFFFFF#32, 1⟩
  | .dbyte  => ⟨.dbyte,  0x40000000#32, 0xFFFFFF00#32, 1⟩
  | .ebyte  => ⟨.ebyte,  0x50000000#32, 0xFFFFFF00#32, 1⟩
  | .check  => ⟨.check,  0x60000000#32, 0xFFFFFFFF#32, 2⟩
  | .sealTrial   => ⟨.sealTrial,   0x70000000#32, 0xFFFFFFFF#32, 1⟩
  | .wctl   => ⟨.wctl,   0x80000000#32, 0xFFFFFFFC#32, 1⟩

/-- Word0 selects the row of `op` (30 R98). -/
def selectsRow (op : Opcode) (word0 : Word) : Bool :=
  word0 &&& (opcodeRow op).mask == (opcodeRow op).matchBits &&& (opcodeRow op).mask

/-- Word `k` of an instruction whose bits, numbered from bit 0 of its first word, are the low `nbits` bits of `w`; bits the
table gives no place are zero (log 8). -/
def tableWord (nbits w k : Nat) : Word := BitVec.ofNat 32 (w % 2 ^ nbits / 2 ^ (32 * k))

/-- What the decoder reads from an instruction whose bits are `w` in the table's numbering. The command port is
word-parallel (20 R76), so a word needs no byte order. -/
def decodeTableWord (nbits w : Nat) : Option Instr :=
  match decode [tableWord nbits w 0, tableWord nbits w 1] with
  | .ok (i, _) => some i
  | .error _ => none

end Sys2Proof
end

