-- ==== Sys2Proof/Config.lean ====
section
/-! DEFINITION. What the build of a QSCE fixes, the sizes of the host's two constants, and the one value the spec leaves
free. Nothing here has a value that Lean can see: a claim holds whatever they are. -/

namespace Sys2Proof

/-- One entry of the method table (00 R8): `{seed_mask: u32, p_const: u16, q_const: u16}`. -/
structure MethodDescriptor where
  seedMask : Word
  pConst   : Half
  qConst   : Half
  deriving DecidableEq, Repr, Inhabited

/-- The method table: exactly five entries, indexed 0 to 4 (00 R8, 10 R48). -/
abbrev MethodTable := Vector MethodDescriptor 5

/-- PREAMBLE, the host's 25-byte tag (00 R12). Its value is not given, so the host's procedures take it as an argument. -/
abbrev Preamble := Vector Byte 25

/-- PASSWORD_CONST, and the password made of it: 8 bytes (00 R12, 70 R284). Its value is not given, so the host's procedures
take it as an argument. -/
abbrev Password := Vector Byte 8

/-- METHOD_TABLE of the built machine (00 R9, 92 D5). OPEN in the spec, so it has no body: no proof can assume any of its
values. `State.reset` carries it in its field `table` (log 1). -/
opaque Config.methodTable : MethodTable

/-- FREE VALUE (log 3): what the latch W0 holds after the n-th reset of a run (10 R55, 93 U2: "any value"). -/
opaque Config.w0AfterReset : Nat → Word

end Sys2Proof
end

