-- ==== Sys2Proof/Machine/State.lean ====
section
/-! DEFINITION. The state of the QSCE (spec 10), as plain data, and its value after reset. -/

namespace Sys2Proof.Machine

/-- STATUS.ERRCODE (10 R43, 60 R231). Codes 6 to 15 are never produced and are left out (93 U6). -/
inductive ErrCode where
  /-- 0 NONE: no error since reset. -/
  | none
  /-- 1 ILLEGAL_OPCODE: word0[31:28] in 0x9 to 0xF. -/
  | illegalOpcode
  /-- 2 RESERVED_BITS: a valid OP with a reserved bit set. -/
  | reservedBits
  /-- 3 BAD_METHOD: SEEDLD with M in 5 to 7. -/
  | badMethod
  /-- 4 NOT_SEEDED: a drawing or trial command before any SEEDLD since reset. -/
  | notSeeded
  /-- 5 TRIAL_CLOSED: a drawing or trial command while DONE = 1. -/
  | trialClosed
  deriving DecidableEq, Repr

/-- What the host does to the block: it presents a word on the command port, or it pulses rst (30 R100, 70 R270). -/
inductive PortEvent where
  /-- A 32-bit word on the command port. -/
  | word (w : Word)
  /-- The rst input. -/
  | rst
  deriving DecidableEq, Repr

/-- The state of the block. The first fifteen fields are the architectural state of 10 R30; the last three are the model's
own (INVENTORY.md, State). -/
structure State where
  /-- SEED, the generator state (10 R31). -/
  seed      : Word
  /-- RLAST, the output drawn by the last XOR step of the trial (10 R32). -/
  rlast     : Word
  /-- CKA, running checksum A (10 R33). -/
  cka       : Half
  /-- CKB, running checksum B (10 R34). -/
  ckb       : Half
  /-- IDX, the count of payload bytes since SEEDLD (10 R35). -/
  idx       : Word
  /-- METHOD, the index latched for the trial; always 0 to 4 (10 R37; log 5). -/
  method    : Fin 5
  /-- RESULT, the value of the last value-producing command (10 R36). -/
  result    : Word
  /-- STATUS.SEEDED (10 R40). -/
  seeded    : Bool
  /-- STATUS.DONE (10 R41). -/
  done      : Bool
  /-- STATUS.MATCH (10 R42). -/
  matchFlag : Bool
  /-- STATUS.ERR (10 R43). -/
  err       : Bool
  /-- STATUS.ERRCODE (10 R43). -/
  errcode   : ErrCode
  /-- CTRL[1:0]: bit 0 IE_DONE, bit 1 IE_ERR; CTRL[31:2] is always 0 (10 R47). -/
  ctrl      : BitVec 2
  /-- PEND: W0 holds a word0 whose word1 has not yet arrived (10 R44). -/
  pend      : Bool
  /-- W0, the latch of word0 (10 R44). -/
  w0        : Word
  /-- METHOD_TABLE, constant for the machine and carried here as the model's argument (00 R9, 10 R48; log 1). -/
  table     : MethodTable
  /-- What the host has presented and the block has not yet taken, oldest first (70 R291; log 4). -/
  input     : List PortEvent
  /-- How many resets have been executed; it picks the free value of W0 after one (log 3). -/
  resets    : Nat
  deriving DecidableEq, Repr

/-- The reasons the machine stops with a fault: there are none. An error of the QSCE is a next state with ERR = 1
(60 R230, R232), arithmetic never traps (60 R234) and no rule stops the block (log 9). -/
inductive Fault where
  deriving DecidableEq, Repr

/-- The reasons an instruction has no meaning in the model. -/
inductive Refusal where
  /-- Raised by `exec` for an instruction that has no meaning yet; safe. No arm of `exec` raises it now. -/
  | notModelled (mnemonic : String)
  deriving DecidableEq, Repr

/-- The block right after reset (10 R55, 70 R270): every register zero, nothing pending, nothing presented. W0 is
unspecified there; zero is the model's choice (log 2). The table is the built machine's (log 1). -/
def State.reset : State where
  seed      := 0#32
  rlast     := 0#32
  cka       := 0#16
  ckb       := 0#16
  idx       := 0#32
  method    := 0
  result    := 0#32
  seeded    := false
  done      := false
  matchFlag := false
  err       := false
  errcode   := .none
  ctrl      := 0#2
  pend      := false
  w0        := 0#32
  table     := Config.methodTable
  input     := []
  resets    := 0

end Sys2Proof.Machine
end

