-- ==== Sys2Proof/Machine/Operands.lean ====
section
/-! DEFINITION. The operand forms and the widening, narrowing and packing of values (spec 00 R13, R14; 30 R97). Every
widening is a zero-extension. -/

namespace Sys2Proof.Machine

/-- `zext_16` of a byte (00 R14). -/
def zext16 (b : Byte) : Half := b.setWidth 16

/-- `zext_16` of a single bit (00 R14). -/
def carry16 (c : Bool) : Half := (BitVec.ofBool c).setWidth 16

/-- `zext_32` of a byte (00 R14). -/
def zext32 (b : Byte) : Word := b.setWidth 32

/-- `v[7:0]` (00 R13). -/
def lowByte (v : Word) : Byte := v.extractLsb' 0 8

/-- `v[15:0]` (00 R13). -/
def lowHalf (v : Word) : Half := v.extractLsb' 0 16

/-- `v[31:16]` (00 R13). -/
def highHalf (v : Word) : Half := v.extractLsb' 16 16

/-- `hi ++ lo`, with `hi` in bits 31:16 (00 R13). -/
def packHalves (hi lo : Half) : Word := hi ++ lo

/-- `rotl16(x, k) = ((x << k) OR (x >> (16-k)))[15:0]` (00 R14). -/
def rotl16 (x : Half) (k : Nat) : Half := (x <<< k) ||| (x >>> (16 - k))

/-- The method that the 3-bit operand M names: 0 to 4, or none for 5 to 7 (40 R141). -/
def methodIndex (m : BitVec 3) : Option (Fin 5) :=
  if h : m.toNat < 5 then some ⟨m.toNat, h⟩ else none

/-- `METHOD_TABLE[m]` (00 R15). -/
def tableEntry (t : MethodTable) (m : Fin 5) : MethodDescriptor := t.get m

end Sys2Proof.Machine
end

