-- ==== Sys2Proof/Machine/Flags.lean ====
section
/-! DEFINITION. The flags, the STATUS word, the interrupt line and the register read port (spec 10 sections 3 and 5, 60
section 2). All are functions of the state: a read has no side effect (10 R51; log 7). -/

namespace Sys2Proof.Machine

/-- The four bits of STATUS.ERRCODE (60 R231). -/
def errCodeBits : ErrCode → BitVec 4
  | .none => 0#4
  | .illegalOpcode => 1#4
  | .reservedBits => 2#4
  | .badMethod => 3#4
  | .notSeeded => 4#4
  | .trialClosed => 5#4

/-- PHASE, which is IDX[0]: false selects the XOR step, true the subtract step (10 R35, R45). -/
def phase (s : State) : Bool := s.idx.getLsbD 0

/-- CTRL.IE_DONE (10 R47). -/
def ieDone (s : State) : Bool := s.ctrl.getLsbD 0

/-- CTRL.IE_ERR (10 R47). -/
def ieErr (s : State) : Bool := s.ctrl.getLsbD 1

/-- The level on the irq output (60 R240). -/
def irq (s : State) : Bool := (s.done && ieDone s) || (s.err && ieErr s)

/-- The three bits of the METHOD register (10 R37). -/
def methodBits (s : State) : BitVec 3 := BitVec.ofNat 3 s.method.val

/-- The flag bits 13:11 of STATUS: IRQ, PHASE, PEND (10 R39). -/
def statusHigh (s : State) : BitVec 3 := (BitVec.ofBool (irq s) ++ BitVec.ofBool (phase s)) ++ BitVec.ofBool s.pend

/-- The flag bits 3:0 of STATUS: ERR, MATCH, DONE, SEEDED (10 R39). -/
def statusLow (s : State) : BitVec 4 :=
  ((BitVec.ofBool s.err ++ BitVec.ofBool s.matchFlag) ++ BitVec.ofBool s.done) ++ BitVec.ofBool s.seeded

/-- The STATUS register (10 R39): reserved bits 31:14, then IRQ, PHASE, PEND, METHOD, ERRCODE, ERR, MATCH, DONE, SEEDED. -/
def statusWord (s : State) : Word :=
  (((0#18 ++ statusHigh s) ++ methodBits s) ++ errCodeBits s.errcode) ++ statusLow s

/-- The CTRL register as it is read: `zext_32(CTRL[1:0])` (10 R47, R50). -/
def ctrlWord (s : State) : Word := s.ctrl.setWidth 32

/-- The register read port (10 R50). -/
def readPort (a : BitVec 3) (s : State) : Word :=
  match a.toNat with
  | 0 => statusWord s
  | 1 => ctrlWord s
  | 2 => s.seed
  | 3 => s.rlast
  | 4 => packHalves s.cka s.ckb
  | 5 => s.idx
  | 6 => s.result
  | _ => 0#32

end Sys2Proof.Machine
end

