-- ==== Sys2Proof/Machine/Ops.lean ====
section
/-! DEFINITION. The operations the commands share: raising an error and leaving the error state, the generator and its
draw, the byte steps, the checksum updates, and the guard of the trial commands. -/

namespace Sys2Proof.Machine

/-- `raise E` (00 R17, 60 R232): ERR and ERRCODE take the error and nothing else changes. The first error since reset is
kept (10 R43). -/
def raiseError (e : ErrCode) (s : State) : State :=
  if s.err then s else { s with err := true, errcode := e }

/-- The error a malformed command raises (30 R102, 60 R231). -/
def encodingErrCode : EncodingError → ErrCode
  | .illegalOpcode => .illegalOpcode
  | .reservedBits => .reservedBits

/-- `reset()` (70 R270), which is also the only way out of the error state (60 R243): every register takes its value of
10 R55. W0 is unspecified there, so it takes a free value (log 3). The method table is constant, and what the host has
presented is not the block's to clear. -/
def resetBlock (s : State) : State :=
  { seed := 0#32, rlast := 0#32, cka := 0#16, ckb := 0#16, idx := 0#32, method := 0, result := 0#32,
    seeded := false, done := false, matchFlag := false, err := false, errcode := .none, ctrl := 0#2,
    pend := false, w0 := Config.w0AfterReset s.resets,
    table := s.table, input := s.input, resets := s.resets + 1 }

/-- `gen(s, m)` for the constants of method m, step by step (40 R131): the new state and the output. The AL field is left
out after its sign bit is taken, since nothing reads it (10 R49). -/
def gen (d : MethodDescriptor) (s : Word) : Word × Word :=
  let bx0 : Half := s.extractLsb' 8 16
  let cx0 : Half := s.extractLsb' 0 8 ++ 0#8
  let c : Bool := s.getLsbD 31
  let d0 : Bool := bx0.getLsbD 15
  let bx1 : Half := (bx0 <<< 1) ||| carry16 c
  let cx1 : Half := (cx0 <<< 1) ||| carry16 d0
  let cx2 : Half := cx1 + lowHalf s
  let bx2 : Half := bx1 + highHalf s + carry16 c
  let cx3 : Half := cx2 + d.pConst
  let bx3 : Half := bx2 + d.qConst + carry16 d0
  (packHalves bx3 cx3, packHalves cx3 bx3)

/-- The entry of the method table that the current trial uses (40 R138). -/
def currentMethod (s : State) : MethodDescriptor := tableEntry s.table s.method

/-- The output `r` that a draw in state `s` returns (40 R132). -/
def drawOutput (s : State) : Word := (gen (currentMethod s) s.seed).2

/-- What a draw does to the state: SEED takes the next generator state (40 R132). -/
def drawState (s : State) : State := { s with seed := (gen (currentMethod s) s.seed).1 }

/-- Both checksums take one plaintext byte: A adds it, B rotates left by 4 and adds it (41 R165, R166). -/
def accumulate (pt : Byte) (s : State) : State :=
  { s with cka := s.cka + zext16 pt, ckb := rotl16 s.ckb 4 + zext16 pt }

/-- The end of a byte step: the index advances modulo 2^32 and RESULT takes the output byte (41 R163, R160, R170). -/
def finishByte (out : Byte) (s : State) : State :=
  { s with idx := s.idx + 1#32, result := zext32 out }

/-- The draw of the XOR step, which keeps the output in RLAST (41 R161). -/
def xorDraw (s : State) : State := { drawState s with rlast := drawOutput s }

/-- The state in which a byte step accumulates: an even index draws, an odd index draws nothing (41 R161, R162). -/
def stepKey (s : State) : State := if phase s then s else xorDraw s

/-- The key byte of a byte step: the low byte of a fresh draw at an even index, of RLAST at an odd one (41 R161, R162). -/
def keyByte (s : State) : Byte := if phase s then lowByte s.rlast else lowByte (drawOutput s)

/-- The plaintext byte that DBYTE makes of a ciphertext byte (41 R161, R162). -/
def decryptByte (b : Byte) (s : State) : Byte := if phase s then b - keyByte s else b ^^^ keyByte s

/-- The ciphertext byte that EBYTE makes of a plaintext byte (41 R161, R171). -/
def encryptByte (b : Byte) (s : State) : Byte := if phase s then b + keyByte s else b ^^^ keyByte s

/-- The end of a trial: the final draw, then DONE, MATCH and RESULT (42 R190, R195). -/
def closeTrial (matched : Bool) (res : Word) (s : State) : State :=
  { drawState s with done := true, matchFlag := matched, result := res }

/-- The guard of the trial commands: NOT_SEEDED before any SEEDLD, TRIAL_CLOSED once DONE = 1, else the command's effect
(10 R40, R41). -/
def inTrial (effect : State → State) (s : State) : State :=
  if !s.seeded then raiseError .notSeeded s
  else if s.done then raiseError .trialClosed s
  else effect s

/-- A command of the table's row, presented so that the very next step runs it: a one-word command stands at the front of
the input; of a two-word command, word0 is already latched and word1 stands at the front (30 R100; log 8). -/
def placeCommand (nbits w : Nat) (s : State) : State :=
  if isTwoWord (tableWord nbits w 0) then
    { s with pend := true, w0 := tableWord nbits w 0, input := .word (tableWord nbits w 1) :: s.input }
  else
    { s with pend := false, input := .word (tableWord nbits w 0) :: s.input }

end Sys2Proof.Machine
end

