-- ==== Sys2Proof/Machine/Control.lean ====
section
/-! DEFINITION. The control commands (spec 43): NOP, WCTL and SRST. -/

namespace Sys2Proof.Machine

/-- NOP (43 R210): nothing. -/
def execNop (s : State) : Host.Outcome State Fault Refusal := .next s

/-- WCTL (43 R211): CTRL[1:0] takes E. -/
def execWctl (e : BitVec 2) (s : State) : Host.Outcome State Fault Refusal := .next { s with ctrl := e }

/-- SRST (43 R212): `reset()`. -/
def execSrst (s : State) : Host.Outcome State Fault Refusal := .next (resetBlock s)

end Sys2Proof.Machine
end

