-- ==== Sys2Proof/Machine/Finalize.lean ====
section
/-! DEFINITION. The commands that close a trial (spec 42): CHECK and SEAL. -/

namespace Sys2Proof.Machine

/-- `expected_a = A XOR rf[15:0]` (42 R191). -/
def expectedA (a : Half) (rf : Word) : Half := a ^^^ lowHalf rf

/-- `expected_b = (B - rf[15:0]) mod 2^16` (42 R191). -/
def expectedB (b : Half) (rf : Word) : Half := b - lowHalf rf

/-- What CHECK does in an open trial: the final draw, the correction and the comparison (42 R190 to R192). -/
def checkEffect (a b : Half) (s : State) : State :=
  closeTrial
    (s.cka == expectedA a (drawOutput s) && s.ckb == expectedB b (drawOutput s))
    (packHalves (expectedA a (drawOutput s)) (expectedB b (drawOutput s))) s

/-- CHECK (42 R190). -/
def execCheck (a b : Half) (s : State) : Host.Outcome State Fault Refusal := .next (inTrial (checkEffect a b) s)

/-- Trailer half A: `CKA XOR rf[15:0]` (42 R195). -/
def trailerA (cka : Half) (rf : Word) : Half := cka ^^^ lowHalf rf

/-- Trailer half B: `(CKB + rf[15:0]) mod 2^16` (42 R195). -/
def trailerB (ckb : Half) (rf : Word) : Half := ckb + lowHalf rf

/-- What SEAL does in an open trial: the final draw and the trailer (42 R195). -/
def sealEffect (s : State) : State :=
  closeTrial false (packHalves (trailerA s.cka (drawOutput s)) (trailerB s.ckb (drawOutput s))) s

/-- SEAL (42 R195). -/
def execSeal (s : State) : Host.Outcome State Fault Refusal := .next (inTrial sealEffect s)

end Sys2Proof.Machine
end

