-- ==== Sys2Proof/Machine/Generator.lean ====
section
/-! DEFINITION. The commands that act on the generator alone (spec 40): SEEDLD and NEXT. -/

namespace Sys2Proof.Machine

/-- The seed SEEDLD installs for method `m`: `RAW XOR seed_mask` (40 R140). -/
def installedSeed (m : Fin 5) (raw : Word) (s : State) : Word := raw ^^^ (tableEntry s.table m).seedMask

/-- What SEEDLD does with a method that exists: every trial register is written (40 R140). -/
def openTrial (m : Fin 5) (raw : Word) (s : State) : State :=
  { s with
    seed := installedSeed m raw s, method := m, idx := 0#32, cka := 0#16, ckb := 0#16, rlast := 0#32,
    seeded := true, done := false, matchFlag := false, result := installedSeed m raw s }

/-- SEEDLD (40 R140): M of 5 to 7 raises BAD_METHOD before any write (40 R141). -/
def execSeedld (m : BitVec 3) (raw : Word) (s : State) : Host.Outcome State Fault Refusal :=
  match methodIndex m with
  | none => .next (raiseError .badMethod s)
  | some k => .next (openTrial k raw s)

/-- What NEXT does in an open trial: one draw, whose output goes to RESULT (40 R145). -/
def nextEffect (s : State) : State := { drawState s with result := drawOutput s }

/-- NEXT (40 R145). -/
def execNext (s : State) : Host.Outcome State Fault Refusal := .next (inTrial nextEffect s)

end Sys2Proof.Machine
end

