-- ==== Sys2Proof/Machine/Payload.lean ====
section
/-! DEFINITION. The payload commands (spec 41): DBYTE and EBYTE. -/

namespace Sys2Proof.Machine

/-- What DBYTE does in an open trial: the decrypted byte is accumulated and goes to RESULT (41 R160, R167). -/
def dbyteEffect (b : Byte) (s : State) : State :=
  finishByte (decryptByte b s) (accumulate (decryptByte b s) (stepKey s))

/-- DBYTE (41 R160). -/
def execDbyte (b : Byte) (s : State) : Host.Outcome State Fault Refusal := .next (inTrial (dbyteEffect b) s)

/-- What EBYTE does in an open trial: the plaintext byte is accumulated, the encrypted byte goes to RESULT (41 R170,
R167). -/
def ebyteEffect (b : Byte) (s : State) : State :=
  finishByte (encryptByte b s) (accumulate b (stepKey s))

/-- EBYTE (41 R170). -/
def execEbyte (b : Byte) (s : State) : Host.Outcome State Fault Refusal := .next (inTrial (ebyteEffect b) s)

end Sys2Proof.Machine
end

