-- ==== Sys2Proof/Machine/Dispatch.lean ====
section
/-! DEFINITION. One arm per command: the command's own rule (30 R102, third check). -/

namespace Sys2Proof.Machine

/-- The command's own rule, in the state where the port has taken its words and cleared PEND (30 R100, R102; log 6). -/
def exec (i : Instr) (s : State) : Host.Outcome State Fault Refusal :=
  match i with
  | .nop => Sys2Proof.Machine.execNop s
  | .srst => Sys2Proof.Machine.execSrst s
  | .seedld m raw => Sys2Proof.Machine.execSeedld m raw s
  | .nextDraw => Sys2Proof.Machine.execNext s
  | .dbyte b => Sys2Proof.Machine.execDbyte b s
  | .ebyte b => Sys2Proof.Machine.execEbyte b s
  | .check a b => Sys2Proof.Machine.execCheck a b s
  | .sealTrial => Sys2Proof.Machine.execSeal s
  | .wctl e => Sys2Proof.Machine.execWctl e s

end Sys2Proof.Machine
end

