-- ==== Sys2Proof/Machine/Port.lean ====
section
/-! DEFINITION. The command port and the rst input (spec 30 section 3, 70 section 1): how a word is latched, executed or
discarded, and how the next event is taken. -/

namespace Sys2Proof.Machine

/-- The one word that is executed in the error state: SRST, exactly (30 R101). -/
def srstWord : Word := 0x10000000#32

/-- `execute(word0, word1)` (30 R102): a malformed command raises its error, any other runs its own rule. -/
def executeCommand (word0 word1 : Word) (s : State) : Host.Outcome State Fault Refusal :=
  match decodeCommand word0 word1 with
  | .error e => .next (raiseError (encodingErrCode e) s)
  | .ok i => exec i s

/-- One word on the command port. With ERR = 1 only the SRST word is executed and every other word is discarded (30 R101);
with ERR = 0 the port behaves as 30 R100 says. -/
def acceptWord (w : Word) (s : State) : Host.Outcome State Fault Refusal :=
  if s.err then
    if w = srstWord then exec .srst s else .next s
  else if s.pend then executeCommand s.w0 w { s with pend := false }
  else if isTwoWord w then .next { s with w0 := w, pend := true }
  else executeCommand w 0#32 s

/-- One event from the host: a word, or the rst input, which acts whatever the state (70 R270). -/
def acceptEvent (e : PortEvent) (s : State) : Host.Outcome State Fault Refusal :=
  match e with
  | .word w => acceptWord w s
  | .rst => .next (resetBlock s)

/-- Take the oldest event the host has presented. With none, the block is idle and waits (60 R255, 70 R270; log 4). -/
def serviceInput (s : State) : Host.Outcome State Fault Refusal :=
  match s.input with
  | [] => .next s
  | e :: rest => acceptEvent e { s with input := rest }

end Sys2Proof.Machine
end

