-- ==== Sys2Proof/Machine/Step.lean ====
section
/-! DEFINITION. One step of the block: one event taken from the host (70 R271, R291). -/

namespace Sys2Proof.Machine

/-- One step: the block takes one word from the command port or one rst pulse, or waits (70 R271, R291). -/
def step (s : State) : Host.Outcome State Fault Refusal := serviceInput s

/-- `s` with the instruction of the table's bits `w` presented so that the very next step runs it (log 8). -/
def State.withFetchWord (s : State) (nbits w : Nat) : State := placeCommand nbits w s

end Sys2Proof.Machine
end

