-- ==== Sys2Proof/Machine/Assembler.lean ====
section
/-! DEFINITION. The assembler (30 R106, R107): one source line to the commands it stands for, and the listing. It gives no
instruction a meaning (92 D21); the points of the lexer that the spec leaves open are log 11. -/

namespace Sys2Proof.Machine

/-- One assembly statement with its operands as written numbers (30 R106, R107). -/
inductive AsmStatement where
  | nop
  | srst
  | seedld (m raw : Nat)
  | nextDraw
  | dbyte (b : Nat)
  | ebyte (b : Nat)
  | check (a b : Nat)
  | sealTrial
  | wctl (e : Nat)
  | dstream (bs : List Nat)
  | estream (bs : List Nat)
  | checkw (w : Nat)
  | trial (m raw : Nat) (bs : List Nat) (a b : Nat)
  deriving DecidableEq, Repr

/-- Why a line does not assemble. -/
inductive AsmError where
  /-- The first word of the line is no mnemonic of 30 R106 or R107. -/
  | unknownMnemonic
  /-- An operand is no number. -/
  | badNumber
  /-- The mnemonic does not take this many operands. -/
  | operandCount
  /-- An operand does not fit its field (30 R106). -/
  | operandRange
  deriving DecidableEq, Repr

/-- An operand of `n` bits; one that does not fit is refused (30 R106). -/
def fitField (n v : Nat) : Except AsmError (BitVec n) :=
  if v < 2 ^ n then .ok (BitVec.ofNat n v) else .error .operandRange

/-- One command per byte, in order (30 R107). -/
def expandBytes (command : Byte → Instr) : List Nat → Except AsmError (List Instr)
  | [] => .ok []
  | v :: vs =>
    match fitField 8 v, expandBytes command vs with
    | .ok b, .ok is => .ok (command b :: is)
    | .error e, _ => .error e
    | _, .error e => .error e

/-- SEEDLD with its operands checked (30 R106). -/
def asmSeedld (m raw : Nat) : Except AsmError Instr :=
  match fitField 3 m, fitField 32 raw with
  | .ok m', .ok raw' => .ok (.seedld m' raw')
  | .error e, _ => .error e
  | _, .error e => .error e

/-- CHECK with its operands checked (30 R106). -/
def asmCheck (a b : Nat) : Except AsmError Instr :=
  match fitField 16 a, fitField 16 b with
  | .ok a', .ok b' => .ok (.check a' b')
  | .error e, _ => .error e
  | _, .error e => .error e

/-- The commands of a statement; the pseudo-instructions are expanded (30 R106, R107). -/
def assembleStatement : AsmStatement → Except AsmError (List Instr)
  | .nop => .ok [.nop]
  | .srst => .ok [.srst]
  | .seedld m raw => (asmSeedld m raw).map fun i => [i]
  | .nextDraw => .ok [.nextDraw]
  | .dbyte b => expandBytes .dbyte [b]
  | .ebyte b => expandBytes .ebyte [b]
  | .check a b => (asmCheck a b).map fun i => [i]
  | .sealTrial => .ok [.sealTrial]
  | .wctl e => (fitField 2 e).map fun e' => [.wctl e']
  | .dstream bs => expandBytes .dbyte bs
  | .estream bs => expandBytes .ebyte bs
  | .checkw w => (fitField 32 w).map fun w' => [.check (w'.extractLsb' 16 16) (w'.extractLsb' 0 16)]
  | .trial m raw bs a b =>
    match asmSeedld m raw, expandBytes .dbyte bs, asmCheck a b with
    | .ok first, .ok middle, .ok last => .ok (first :: middle ++ [last])
    | .error e, _, _ => .error e
    | _, .error e, _ => .error e
    | _, _, .error e => .error e

/-- The value of a digit in the base, if it is one. -/
def digitValue (base : Nat) (c : Char) : Option Nat :=
  let v :=
    if '0' ≤ c ∧ c ≤ '9' then c.toNat - '0'.toNat
    else if 'a' ≤ c ∧ c ≤ 'f' then c.toNat - 'a'.toNat + 10
    else if 'A' ≤ c ∧ c ≤ 'F' then c.toNat - 'A'.toNat + 10
    else base
  if v < base then some v else none

/-- Digits, most significant first, after the value read so far. -/
def digitsFrom (base acc : Nat) : List Char → Option Nat
  | [] => some acc
  | c :: cs =>
    match digitValue base c with
    | some v => digitsFrom base (acc * base + v) cs
    | none => none

/-- A number: decimal, or hexadecimal with 0x (30 R106). -/
def parseNumber : List Char → Option Nat
  | [] => none
  | '0' :: 'x' :: c :: cs => digitsFrom 16 0 (c :: cs)
  | c :: cs => digitsFrom 10 0 (c :: cs)

/-- White space on a line (log 11). -/
def isBlank (c : Char) : Bool := c == ' ' || c == '\t'

/-- A line without its comment (30 R106). -/
def stripComment (line : List Char) : List Char := line.takeWhile (· != ';')

/-- A text without the white space at its ends. -/
def trimBlanks (cs : List Char) : List Char := ((cs.dropWhile isBlank).reverse.dropWhile isBlank).reverse

/-- The operand texts of a list separated by commas. -/
def splitCommas : List Char → List (List Char)
  | [] => [[]]
  | ',' :: cs => [] :: splitCommas cs
  | c :: cs =>
    match splitCommas cs with
    | [] => [[c]]
    | t :: ts => (c :: t) :: ts

/-- The numbers of an operand text; an empty text has none. -/
def parseOperands (cs : List Char) : Option (List Nat) :=
  if trimBlanks cs = [] then some [] else (splitCommas cs).mapM fun t => parseNumber (trimBlanks t)

/-- TRIAL's operands: M, RAW, the bytes, A, B (30 R107). -/
def trialOperands : List Nat → Option AsmStatement
  | m :: raw :: rest =>
    match rest.reverse with
    | b :: a :: bytes => some (.trial m raw bytes.reverse a b)
    | _ => none
  | _ => none

/-- The statement forms by mnemonic, in lower case, each with what it makes of its operands (30 R106, R107). -/
def statementForms : List (List Char × (List Nat → Option AsmStatement)) := [
  (['n', 'o', 'p'], fun | [] => some .nop | _ => none),
  (['s', 'r', 's', 't'], fun | [] => some .srst | _ => none),
  (['s', 'e', 'e', 'd', 'l', 'd'], fun | [m, raw] => some (.seedld m raw) | _ => none),
  (['n', 'e', 'x', 't'], fun | [] => some .nextDraw | _ => none),
  (['d', 'b', 'y', 't', 'e'], fun | [b] => some (.dbyte b) | _ => none),
  (['e', 'b', 'y', 't', 'e'], fun | [b] => some (.ebyte b) | _ => none),
  (['c', 'h', 'e', 'c', 'k'], fun | [a, b] => some (.check a b) | _ => none),
  (['s', 'e', 'a', 'l'], fun | [] => some .sealTrial | _ => none),
  (['w', 'c', 't', 'l'], fun | [e] => some (.wctl e) | _ => none),
  (['d', 's', 't', 'r', 'e', 'a', 'm'], fun | [] => none | bs => some (.dstream bs)),
  (['e', 's', 't', 'r', 'e', 'a', 'm'], fun | [] => none | bs => some (.estream bs)),
  (['c', 'h', 'e', 'c', 'k', 'w'], fun | [w] => some (.checkw w) | _ => none),
  (['t', 'r', 'i', 'a', 'l'], trialOperands)]

/-- The statement of a mnemonic and its operand text. Mnemonics are not case-sensitive (30 R106). -/
def parseStatement (mnemonic operands : List Char) : Except AsmError AsmStatement :=
  match statementForms.lookup (mnemonic.map Char.toLower) with
  | none => .error .unknownMnemonic
  | some form =>
    match parseOperands operands with
    | none => .error .badNumber
    | some vs =>
      match form vs with
      | none => .error .operandCount
      | some st => .ok st

/-- The commands of one source line; a line with nothing but white space and a comment has none (30 R106). -/
def assembleLine (line : List Char) : Except AsmError (List Instr) :=
  let text := trimBlanks (stripComment line)
  if text = [] then .ok []
  else
    match parseStatement (text.takeWhile fun c => !isBlank c) (text.dropWhile fun c => !isBlank c) with
    | .ok st => assembleStatement st
    | .error e => .error e

/-- The digit of a nibble. -/
def hexDigit (v : Nat) : Char := ['0', '1', '2', '3', '4', '5', '6', '7', '8', '9', 'A', 'B', 'C', 'D', 'E', 'F'].getD v '0'

/-- A word in hexadecimal, eight digits after 0x. -/
def hexWord (w : Word) : List Char :=
  '0' :: 'x' :: [7, 6, 5, 4, 3, 2, 1, 0].map fun k => hexDigit (w.toNat / 16 ^ k % 16)

/-- The listing of a command: word0, then word1 if there is one, in hexadecimal (30 R106). -/
def listing (i : Instr) : List (List Char) := (encode i).map hexWord

end Sys2Proof.Machine
end

