-- ==== Sys2Proof/Machine/HostProtocol.lean ====
section
/-! DEFINITION. The host's procedures (spec 20 section 2, 70 section 2): the frame, one trial, the method loop, the password
transform and the whole decode. They lie outside the block (00 R6) and touch it through its ports alone: words to the
command port, reads of the register port. PREAMBLE, PASSWORD_CONST and the container decoder are arguments (00 R12; log
10). -/

namespace Sys2Proof.Machine

/-- The outcome of driving the block, with a value beside the state. -/
abbrev HostRun (α : Type) := Host.Outcome (α × State) Fault Refusal

/-- Go on with the next state, or stop where the block stops. -/
def andThen {α β : Type} (o : Host.Outcome α Fault Refusal) (k : α → Host.Outcome β Fault Refusal) :
    Host.Outcome β Fault Refusal :=
  match o with
  | .next a => k a
  | .fault r => .fault r
  | .refused r => .refused r

/-- Send words to the command port, in order (20 R82). -/
def sendWords : List Word → State → Host.Outcome State Fault Refusal
  | [], s => .next s
  | w :: ws, s => andThen (acceptWord w s) (sendWords ws)

/-- Send one command (00 R19). -/
def sendCommand (i : Instr) (s : State) : Host.Outcome State Fault Refusal := sendWords (encode i) s

/-- Send commands, in order. -/
def sendCommands : List Instr → State → Host.Outcome State Fault Refusal
  | [], s => .next s
  | i :: is, s => andThen (sendCommand i s) (sendCommands is)

/-- The output byte the host takes after DBYTE or EBYTE: RESULT[7:0] through the read port (20 R77). -/
def outputByte (s : State) : Byte := lowByte (readPort 6#3 s)

/-- Send one byte command per byte, in order, taking the output byte after each (20 R74, 70 R281 step 4). -/
def streamBytes (command : Byte → Instr) : List Byte → State → HostRun (List Byte)
  | [], s => .next ([], s)
  | b :: bs, s =>
    andThen (sendCommand (command b) s) fun s1 =>
      andThen (streamBytes command bs s1) fun r => .next (outputByte s1 :: r.1, r.2)

/-- A parsed frame (20 R71). -/
structure Frame where
  rawSeed   : Word
  payload   : List Byte
  checksumA : Half
  checksumB : Half
  deriving DecidableEq, Repr

/-- Why the host starts no trial (70 R281 steps 1 and 2). -/
inductive FrameError where
  /-- The file is shorter than 33 bytes (20 R75). -/
  | truncatedInput
  /-- F[0..24] is not the preamble. -/
  | formatMismatch
  deriving DecidableEq, Repr

/-- `F[k]` (00 R16). Only offsets inside the file are asked for. -/
def fileByte (file : List Byte) (k : Nat) : Byte := file.getD k 0#8

/-- Two frame bytes, big-endian (20 R73). -/
def bigEndian16 (b0 b1 : Byte) : Half := b0 ++ b1

/-- Four frame bytes, big-endian (20 R72). -/
def bigEndian32 (b0 b1 b2 b3 : Byte) : Word := packHalves (bigEndian16 b0 b1) (bigEndian16 b2 b3)

/-- The four bytes of a word, most significant first (20 R77). -/
def wordBytes (w : Word) : List Byte :=
  [w.extractLsb' 24 8, w.extractLsb' 16 8, w.extractLsb' 8 8, w.extractLsb' 0 8]

/-- N, the payload length of a frame file (20 R71). -/
def payloadLength (file : List Byte) : Nat := file.length - 33

/-- The host's frame parser: the length check, the preamble check, and the fields of 20 R71 to R74. -/
def parseFrame (preamble : Preamble) (file : List Byte) : Except FrameError Frame :=
  if file.length < 33 then .error .truncatedInput
  else if file.take 25 ≠ preamble.toList then .error .formatMismatch
  else .ok {
    rawSeed := bigEndian32 (fileByte file 25) (fileByte file 26) (fileByte file 27) (fileByte file 28)
    payload := (file.drop 29).take (payloadLength file)
    checksumA := bigEndian16 (fileByte file (payloadLength file + 29)) (fileByte file (payloadLength file + 30))
    checksumB := bigEndian16 (fileByte file (payloadLength file + 31)) (fileByte file (payloadLength file + 32)) }

/-- The frame file of a raw seed, a payload and a trailer word (20 R71, R77). -/
def frameFile (preamble : Preamble) (raw : Word) (payload : List Byte) (trailer : Word) : List Byte :=
  preamble.toList ++ wordBytes raw ++ payload ++ wordBytes trailer

/-- How a trial ends for the host (70 R281 step 6). -/
inductive TrialOutcome where
  | success (plaintext : List Byte)
  | wrongMethod
  | fatal
  deriving DecidableEq, Repr

/-- The host's reading of STATUS after CHECK: ERR = 1 is fatal whatever MATCH says, since MATCH is then from an earlier
trial (70 R281 step 6; log 10). -/
def trialOutcome (plaintext : List Byte) (s : State) : TrialOutcome :=
  if (readPort 0#3 s).getLsbD 3 then .fatal
  else if (readPort 0#3 s).getLsbD 2 then .success plaintext
  else .wrongMethod

/-- One trial of a parsed frame under method `m`: SEEDLD, the payload through DBYTE, CHECK, then STATUS (70 R281 steps 3
to 6). -/
def runTrial (frame : Frame) (m : Fin 5) (s : State) : HostRun TrialOutcome :=
  andThen (sendCommand (.seedld (BitVec.ofNat 3 m.val) frame.rawSeed) s) fun s1 =>
    andThen (streamBytes .dbyte frame.payload s1) fun r =>
      andThen (sendCommand (.check frame.checksumA frame.checksumB) r.2) fun s3 =>
        .next (trialOutcome r.1 s3, s3)

/-- How a whole decode fails (60 R236, 70 R282, R284). -/
inductive DecodeFailure where
  | truncatedInput
  | formatMismatch
  | unknownFormat
  | fatal
  | containerDecodeFailed
  deriving DecidableEq, Repr

/-- `Malformed` is the umbrella of the frame errors and of a fatal trial (60 R236, 70 R282). -/
def isMalformed : DecodeFailure → Bool
  | .truncatedInput | .formatMismatch | .fatal => true
  | .unknownFormat | .containerDecodeFailed => false

/-- The failure that a frame error is reported as. -/
def frameFailure : FrameError → DecodeFailure
  | .truncatedInput => .truncatedInput
  | .formatMismatch => .formatMismatch

/-- The order in which methods are tried: the most recent format first (70 R282). -/
def methodOrder : List (Fin 5) := [4, 3, 2, 1, 0]

/-- The method selection loop over the methods still to be tried (70 R282). -/
def methodLoop (frame : Frame) : List (Fin 5) → State → HostRun (Except DecodeFailure (List Byte))
  | [], s => .next (.error .unknownFormat, s)
  | m :: ms, s =>
    andThen (runTrial frame m s) fun r =>
      match r.1 with
      | .success plaintext => .next (.ok plaintext, r.2)
      | .fatal => .next (.error .fatal, r.2)
      | .wrongMethod => methodLoop frame ms r.2

/-- The top layer's decode of a file: the frame checks, which start no trial when they fail, then the method loop (70 R281,
R282). -/
def decodeFile (preamble : Preamble) (file : List Byte) (s : State) : HostRun (Except DecodeFailure (List Byte)) :=
  match parseFrame preamble file with
  | .error e => .next (.error (frameFailure e), s)
  | .ok frame => methodLoop frame methodOrder s

/-- The password transform, applied once to PASSWORD_CONST: `pw[i] = (PASSWORD_CONST[i] − 11·(i+1)) mod 2^8` for i = 0 to 7
(70 R284). -/
def resolvePassword (passwordConst : Password) : Password :=
  Vector.ofFn fun i => passwordConst.get i - BitVec.ofNat 8 (11 * (i.val + 1))

/-- What the host does with a decoded plaintext: it hands it to the external container decoder with the resolved password,
and reports that decoder's failure apart from the others (70 R284). -/
def handToContainer {α : Type} (decodeContainer : List Byte → Password → Option α) (password : Password) :
    Except DecodeFailure (List Byte) → Except DecodeFailure α
  | .error e => .error e
  | .ok plaintext =>
    match decodeContainer plaintext password with
    | some a => .ok a
    | none => .error .containerDecodeFailed

/-- The whole decode of a quest file. The container decoder is external and is an argument (00 R6; log 10). -/
def decodeQuest {α : Type} (preamble : Preamble) (passwordConst : Password)
    (decodeContainer : List Byte → Password → Option α) (file : List Byte) (s : State) : HostRun (Except DecodeFailure α) :=
  andThen (decodeFile preamble file s) fun r =>
    .next (handToContainer decodeContainer (resolvePassword passwordConst) r.1, r.2)

/-- The host builds a frame file from a plaintext: SEEDLD, the plaintext through EBYTE, SEAL, and the trailer from RESULT
(42 R196, 20 R77). -/
def sealFile (preamble : Preamble) (m : Fin 5) (raw : Word) (plaintext : List Byte) (s : State) : HostRun (List Byte) :=
  andThen (sendCommand (.seedld (BitVec.ofNat 3 m.val) raw) s) fun s1 =>
    andThen (streamBytes .ebyte plaintext s1) fun r =>
      andThen (sendCommand .sealTrial r.2) fun s3 =>
        .next (frameFile preamble raw r.1 (readPort 6#3 s3), s3)

/-- The recovery of a host that has lost count of its words: a filler word when STATUS.PEND is set, then SRST (70 R285). -/
def recoverWords (filler : Word) (s : State) : List Word :=
  if (readPort 0#3 s).getLsbD 11 then [filler, srstWord] else [srstWord]

end Sys2Proof.Machine
end

