-- ==== Sys2Proof/Safety.lean ====
section
/-! DEFINITION. What counts as a good state and a run of the QSCE, in the terms the claims use. -/

namespace Sys2Proof.Machine

/-- A trial is open: SEEDED = 1 and DONE = 0 (00 R19). -/
abbrev State.TrialOpen (s : State) : Prop := s.seeded = true ∧ s.done = false

/-- The error state: ERR = 1 (00 R19). -/
abbrev State.InError (s : State) : Prop := s.err = true

/-- The trial registers that are zero before the first SEEDLD (10 R54). -/
abbrev State.Unseeded (s : State) : Prop :=
  s.seed = 0#32 ∧ s.rlast = 0#32 ∧ s.cka = 0#16 ∧ s.ckb = 0#16 ∧ s.idx = 0#32

/-- The invariants of 10 R54. METHOD is read off its three bits. -/
structure State.Inv (s : State) : Prop where
  done_seeded : s.done = true → s.seeded = true
  match_done : s.matchFlag = true → s.done = true
  err_code : s.err = false ↔ s.errcode = .none
  method_le : (methodBits s).toNat ≤ 4
  pend_no_err : s.pend = true → s.err = false
  unseeded : s.seeded = false → s.Unseeded

/-- A reachable state: from reset, with any method table and any W0 (00 R9, 10 R55), the host presents events and the block
takes steps, in any order. -/
inductive Reachable : State → Prop where
  | reset (table : MethodTable) (w0 : Word) : Reachable { State.reset with table := table, w0 := w0 }
  | present {s : State} (events : List PortEvent) : Reachable s → Reachable { s with input := s.input ++ events }
  | step {s t : State} : Reachable s → step s = .next t → Reachable t

/-- Two states that differ at most in W0. -/
def SameButW0 (s t : State) : Prop := { s with w0 := 0#32 } = { t with w0 := 0#32 }

/-- The registers at the values of 10 R55. W0 is left out: it is unspecified there. -/
structure State.ResetValues (s : State) : Prop where
  seed : s.seed = 0#32
  rlast : s.rlast = 0#32
  cka : s.cka = 0#16
  ckb : s.ckb = 0#16
  idx : s.idx = 0#32
  method : s.method = 0
  result : s.result = 0#32
  status : readPort 0#3 s = 0#32
  ctrl : readPort 1#3 s = 0#32
  pend : s.pend = false
  irq_low : irq s = false

/-- The instruction that the next step executes, if it executes one: the step may also latch a word0, discard a word, raise
an encoding error, take rst, or wait (30 R100 to R102). -/
def executes (s : State) : Option Instr :=
  match s.input with
  | .word w :: _ =>
    if s.err then if w = srstWord then some .srst else none
    else if s.pend then (decodeCommand s.w0 w).toOption
    else if isTwoWord w then none
    else (decodeCommand w 0#32).toOption
  | .rst :: _ => none
  | [] => none

/-- The next step executes an instruction of one of these operations. -/
def ExecutesOneOf (ops : List Opcode) (s : State) : Prop := ∃ i, executes s = some i ∧ i.opcode ∈ ops

/-- The next step is a reset: the rst input, or SRST executed by the port (70 R270). -/
def StepResets (s : State) : Prop := s.input.head? = some .rst ∨ executes s = some .srst

/-- A byte command, DBYTE or EBYTE. -/
def IsByteCommand (i : Instr) : Prop := i.opcode = .dbyte ∨ i.opcode = .ebyte

/-- The five commands that need an open trial (10 R40, R41). -/
def NeedsTrial (i : Instr) : Prop := i.opcode ∈ [Opcode.nextDraw, .dbyte, .ebyte, .check, .sealTrial]

/-- Trials of these methods, each from the state the one before left, all of which give WrongMethod (70 R282). -/
def WrongTrials (frame : Frame) : List (Fin 5) → State → State → Prop
  | [], s, t => s = t
  | m :: ms, s, t => ∃ u, runTrial frame m s = .next (.wrongMethod, u) ∧ WrongTrials frame ms u t

/-- Run one command's own rule after another: what the port does with well-formed commands while ERR = 0 (30 R100). -/
def execAll : List Instr → State → Host.Outcome State Fault Refusal
  | [], s => .next s
  | i :: is, s => andThen (exec i s) (execAll is)

end Sys2Proof.Machine
end

