-- ==== Sys2Proof/Certificates/Slice0/Obligations.lean ====
section
/-! DEFINITION. The statements put to the provers. Every statement about a next state is about all of the block's state: the
QSCE has no memory (00 R16), so no frame speaks of one. -/

open Sys2Proof Sys2Proof.Machine

/-! ### Encoding (spec 30) -/

/-- The encoding examples of 30 R108, in both directions. -/
def Obligations.SpecExampleWordsDecode : Prop :=
  decode [0x20000003#32, 0x12345678#32] = .ok (.seedld 3#3 0x12345678#32, []) ∧
  decode [0x400000A5#32] = .ok (.dbyte 0xA5#8, []) ∧
  decode [0x50000000#32] = .ok (.ebyte 0x00#8, []) ∧
  decode [0x60000000#32, 0x1234ABCD#32] = .ok (.check 0x1234#16 0xABCD#16, []) ∧
  decode [0x80000003#32] = .ok (.wctl 3#2, []) ∧
  decode [0x30000000#32] = .ok (.nextDraw, []) ∧
  decode [0x70000000#32] = .ok (.sealTrial, []) ∧
  decode [0x10000000#32] = .ok (.srst, []) ∧
  decode [0x00000000#32] = .ok (.nop, []) ∧
  encode (.seedld 3#3 0x12345678#32) = [0x20000003#32, 0x12345678#32] ∧
  encode (.dbyte 0xA5#8) = [0x400000A5#32] ∧
  encode (.ebyte 0x00#8) = [0x50000000#32] ∧
  encode (.check 0x1234#16 0xABCD#16) = [0x60000000#32, 0x1234ABCD#32] ∧
  encode (.wctl 3#2) = [0x80000003#32] ∧
  encode .nextDraw = [0x30000000#32] ∧
  encode .sealTrial = [0x70000000#32] ∧
  encode .srst = [0x10000000#32] ∧
  encode .nop = [0x00000000#32]

/-- Decoding the words of any instruction, with every operand at every value, gives it back and leaves the words after it
(30 sections 1 to 3). -/
def Obligations.DecodingAnEncodedInstructionReturnsIt : Prop :=
  ∀ (i : Instr) (rest : List Word), decode (encode i ++ rest) = .ok (i, rest)

/-- The other direction: words that decode to an instruction are that instruction's own encoding, so no instruction has two
encodings (30 sections 1 to 3). -/
def Obligations.DecodedWordsAreTheInstructionsEncoding : Prop :=
  ∀ (ws rest : List Word) (i : Instr), decode ws = .ok (i, rest) → ws = encode i ++ rest

/-- The format patterns of 30 section 1 and the decoder's masks accept the same commands: a command is well formed exactly
when it is the encoding of an instruction. -/
def Obligations.WellFormedCommandsAreTheEncodings : Prop :=
  ∀ c : Command, c.wellFormed = true ↔ ∃ i, encodeCommand i = c

/-- The match and mask columns of the opcode map select exactly the words that decode to the row's command, and its words
column is the command's length. A word whose OP selects a row but whose reserved bits are not zero selects no row, and is
refused for its reserved bits (30 R98). -/
def Obligations.OpcodeMapRowsSelectTheirCommands : Prop :=
  ∀ (op : Opcode) (word0 word1 : Word),
    (selectsRow op word0 = true ↔ ∃ i, decodeCommand word0 word1 = .ok i ∧ i.opcode = op) ∧
    (opcodeOf (opField word0) = some op → selectsRow op word0 = false →
      (∀ op', selectsRow op' word0 = false) ∧ decodeCommand word0 word1 = .error .reservedBits) ∧
    (∀ i : Instr, i.opcode = op → (encode i).length = (opcodeRow op).words)

/-- The length of a command depends on word0[31:28] alone: with OP 0x2 or 0x6 the block takes two words, malformed or not,
and with every other OP it takes one (30 R99). -/
def Obligations.CommandLengthDependsOnOpcodeAlone : Prop :=
  ∀ (s : State) (word0 word1 : Word) (rest : List PortEvent),
    s.err = false → s.pend = false → s.input = .word word0 :: .word word1 :: rest →
    ((word0.extractLsb' 28 4 = 2#4 ∨ word0.extractLsb' 28 4 = 6#4) →
      ∃ t u, step s = .next t ∧ t.pend = true ∧ step t = .next u ∧ u.pend = false ∧ u.input = rest) ∧
    (¬(word0.extractLsb' 28 4 = 2#4 ∨ word0.extractLsb' 28 4 = 6#4) →
      ∃ t, step s = .next t ∧ t.pend = false ∧ t.input = .word word1 :: rest)

/-! ### The command port and the step (spec 30 section 3, 70 section 1) -/

/-- A step runs the decoded instruction: a one-word command straight from the port, a two-word command when its word1
arrives. Around `exec` the port takes the word off the input and clears PEND (30 section 3). -/
def Obligations.StepRunsTheDecodedInstruction : Prop :=
  ∀ (s : State) (w : Word) (rest : List PortEvent) (i : Instr),
    s.err = false → s.input = .word w :: rest →
    (s.pend = false → isTwoWord w = false → decodeCommand w 0#32 = .ok i →
      step s = exec i { s with input := rest }) ∧
    (s.pend = true → decodeCommand s.w0 w = .ok i →
      step s = exec i { s with input := rest, pend := false })

/-- The words of any instruction, presented on the port with no error and nothing pending, run it in as many steps as it has
words; a two-word command leaves its word0 in W0 (30 section 3). -/
def Obligations.PresentedInstructionRunsInItsWordCount : Prop :=
  ∀ (s : State) (i : Instr) (rest : List PortEvent),
    s.err = false → s.pend = false → s.input = (encode i).map .word ++ rest →
    core.run (encode i).length s =
      exec i { s with input := rest, w0 := if isTwoWord (encodeWord0 i) then encodeWord0 i else s.w0 }

/-- What `withFetchWord` places is what the very next step runs (the model's own device, log 8). -/
def Obligations.PlacedTableWordRunsNext : Prop :=
  ∀ (s : State) (nbits w : Nat) (i : Instr),
    s.err = false → decodeTableWord nbits w = some i →
    step (s.withFetchWord nbits w) =
      exec i { s with pend := false, w0 := if isTwoWord (tableWord nbits w 0) then tableWord nbits w 0 else s.w0 }

/-- The command port while ERR = 0: with PEND = 1 the word is word1 whatever its value, and runs with the latched word0; a
first word with OP 0x2 or 0x6 is latched and nothing else changes; any other word is executed at once. Of the events that
can arrive while PEND = 1, only rst resets (30 R100). -/
def Obligations.PortTakesWordsWhileNoError : Prop :=
  ∀ (s : State) (w : Word) (rest : List PortEvent),
    s.err = false → s.input = .word w :: rest →
    (s.pend = true → step s = executeCommand s.w0 w { s with pend := false, input := rest }) ∧
    (s.pend = false → (w.extractLsb' 28 4 = 2#4 ∨ w.extractLsb' 28 4 = 6#4) →
      step s = .next { s with w0 := w, pend := true, input := rest }) ∧
    (s.pend = false → ¬(w.extractLsb' 28 4 = 2#4 ∨ w.extractLsb' 28 4 = 6#4) →
      step s = executeCommand w 0#32 { s with input := rest }) ∧
    (s.pend = true → (s.w0.extractLsb' 28 4 = 2#4 ∨ s.w0.extractLsb' 28 4 = 6#4) → ¬StepResets s) ∧
    StepResets { s with input := .rst :: rest }

/-- `execute` checks in the order of 30 R102: a reserved OP is ILLEGAL_OPCODE, then a set reserved bit is RESERVED_BITS (the
masks of 30 R103, which leave word1 free), and only then the command's own rule runs. -/
def Obligations.ExecuteChecksOpcodeThenReservedBits : Prop :=
  ∀ (s : State) (word0 word1 : Word), s.err = false →
    (9 ≤ (word0.extractLsb' 28 4).toNat →
      executeCommand word0 word1 s = .next { s with err := true, errcode := .illegalOpcode }) ∧
    (∀ rsv : Word,
      ((word0.extractLsb' 28 4).toNat ∈ [0, 1, 3, 6, 7] ∧ rsv = 0x0FFFFFFF#32 ∨
       (word0.extractLsb' 28 4).toNat = 2 ∧ rsv = 0x0FFFFFF8#32 ∨
       (word0.extractLsb' 28 4).toNat ∈ [4, 5] ∧ rsv = 0x0FFFFF00#32 ∨
       (word0.extractLsb' 28 4).toNat = 8 ∧ rsv = 0x0FFFFFFC#32) →
      (word0 &&& rsv ≠ 0#32 →
        executeCommand word0 word1 s = .next { s with err := true, errcode := .reservedBits }) ∧
      (word0 &&& rsv = 0#32 →
        ∃ i, decodeCommand word0 word1 = .ok i ∧ executeCommand word0 word1 s = exec i s))

/-- While ERR = 1 the port executes only the word 0x10000000, as SRST; every other word is discarded with no effect. In a
state that meets the invariants, PEND = 0 whenever ERR = 1 (30 R101). -/
def Obligations.ErrorStateExecutesOnlySoftReset : Prop :=
  ∀ (s : State) (w : Word) (rest : List PortEvent),
    s.err = true → s.input = .word w :: rest →
    (w = 0x10000000#32 → step s = exec .srst { s with input := rest }) ∧
    (w ≠ 0x10000000#32 → step s = .next { s with input := rest }) ∧
    (s.Inv → s.pend = false)

/-- With nothing presented, the block waits: the step changes nothing (70 section 1; the idle step is log 4). -/
def Obligations.BlockWaitsWithNothingPresented : Prop :=
  ∀ s : State, s.input = [] → step s = .next s

/-- Every step answers a next state, and so does every command: no operand, no state and no word stops the block, since
errors are states and arithmetic never traps (60 sections 1 and 3). -/
def Obligations.EveryStepAnswersANextState : Prop :=
  (∀ s : State, ∃ t, step s = .next t) ∧ (∀ (i : Instr) (s : State), ∃ t, exec i s = .next t)

/-! ### State, reset and invariants (spec 10, 70) -/

/-- Both resets leave every register at its value of 10 R55 and irq low, whatever the state was, and they do the same thing;
`State.reset` has those values. W0 is unspecified, so nothing is said of it. rst acts at any time; the SRST word resets
exactly when the port executes it (70 section 1). Two clauses are the model's choice (log 4): a reset keeps the words that
the host has presented, and with none presented the step after a reset changes nothing, which is how the block waits. -/
def Obligations.BothResetsLeaveTheResetValues : Prop :=
  State.reset.ResetValues ∧
  (∀ s : State, ∃ t, exec .srst s = .next t ∧ acceptEvent .rst s = .next t ∧ t.ResetValues ∧
    t.table = s.table ∧ t.input = s.input) ∧
  (∀ (s : State) (rest : List PortEvent), s.input = .rst :: rest →
    ∃ t, step s = .next t ∧ t.ResetValues) ∧
  (∀ (s : State) (rest : List PortEvent), s.input = .word 0x10000000#32 :: rest →
    (s.err = true ∨ s.pend = false → ∃ t, step s = .next t ∧ t.ResetValues) ∧
    (s.err = false → s.pend = true → step s = executeCommand s.w0 0x10000000#32 { s with pend := false, input := rest })) ∧
  (∀ s : State, s.ResetValues → s.input = [] → step s = .next s)

/-- After reset no trial is open: the five trial commands raise NOT_SEEDED and change nothing else, until a SEEDLD completes,
which opens a trial (no other command sets SEEDED); NOP, WCTL, SRST and SEEDLD of an existing method raise nothing; the
interrupt is masked (70 R272). -/
def Obligations.AfterResetOnlyUnseededCommandsAreLegal : Prop :=
  ∀ s : State, s.ResetValues →
    irq s = false ∧ s.ctrl = 0#2 ∧ ¬s.TrialOpen ∧
    (∀ i, NeedsTrial i → exec i s = .next { s with err := true, errcode := .notSeeded }) ∧
    (∀ i, ¬NeedsTrial i → (∀ m raw, i = .seedld m raw → m.toNat ≤ 4) → ∃ t, exec i s = .next t ∧ t.err = false) ∧
    (∀ i t, exec i s = .next t → i.opcode ≠ .seedld → t.seeded = false) ∧
    (∀ (m : BitVec 3) (raw : Word), m.toNat ≤ 4 → ∃ t, exec (.seedld m raw) s = .next t ∧ t.TrialOpen)

/-- The invariants of 10 R54 hold at reset. -/
def Obligations.InvariantsHoldAtReset : Prop := State.reset.Inv

/-- Every step from a state that meets the invariants of 10 R54 ends in a state that meets them, whatever the host
presents. -/
def Obligations.EveryStepKeepsTheInvariants : Prop :=
  ∀ s t : State, s.Inv → step s = .next t → t.Inv

/-- The invariants of 10 R54 hold in every reachable state, for every method table, every W0 after reset and every stream of
words and rst pulses. -/
def Obligations.ReachableStatesMeetTheInvariants : Prop :=
  ∀ s : State, Reachable s →
    (s.done = true → s.seeded = true) ∧ (s.matchFlag = true → s.done = true) ∧
    (s.err = false ↔ errCodeBits s.errcode = 0#4) ∧ (methodBits s).toNat ≤ 4 ∧
    (s.pend = true → s.err = false) ∧
    (s.seeded = false → s.seed = 0#32 ∧ s.rlast = 0#32 ∧ s.cka = 0#16 ∧ s.ckb = 0#16 ∧ s.idx = 0#32)

/-- Who writes what: a register changes in a step only if the step executes a command that 10 section 1 lists as its
writer (rst apart). The method table never changes. W0 changes only where a word0 is latched or at SRST. PEND rises only
where a word0 of a two-word command is latched with ERR = 0, and falls only where word1 is taken with ERR = 0 or at SRST. -/
def Obligations.OnlyTheListedCommandsWriteARegister : Prop :=
  ∀ s t : State, step s = .next t → s.input.head? ≠ some .rst →
    (t.seed ≠ s.seed →
      ExecutesOneOf [.seedld, .nextDraw, .check, .sealTrial, .srst] s ∨ (ExecutesOneOf [.dbyte, .ebyte] s ∧ s.idx.getLsbD 0 = false)) ∧
    (t.rlast ≠ s.rlast →
      ExecutesOneOf [.seedld, .srst] s ∨ (ExecutesOneOf [.dbyte, .ebyte] s ∧ s.idx.getLsbD 0 = false)) ∧
    (t.cka ≠ s.cka ∨ t.ckb ≠ s.ckb ∨ t.idx ≠ s.idx → ExecutesOneOf [.seedld, .dbyte, .ebyte, .srst] s) ∧
    (t.method ≠ s.method → ExecutesOneOf [.seedld, .srst] s) ∧
    (t.result ≠ s.result → ExecutesOneOf [.seedld, .nextDraw, .dbyte, .ebyte, .check, .sealTrial, .srst] s) ∧
    (t.ctrl ≠ s.ctrl → ExecutesOneOf [.wctl, .srst] s) ∧
    (t.w0 ≠ s.w0 → ExecutesOneOf [.srst] s ∨
      (s.err = false ∧ s.pend = false ∧ t.pend = true ∧ s.input.head? = some (.word t.w0))) ∧
    (s.pend = false → t.pend = true →
      s.err = false ∧ ∃ w, s.input.head? = some (.word w) ∧ t.w0 = w ∧
        (w.extractLsb' 28 4 = 2#4 ∨ w.extractLsb' 28 4 = 6#4)) ∧
    (s.pend = true → t.pend = false →
      ExecutesOneOf [.srst] s ∨ (s.err = false ∧ ∃ w, s.input.head? = some (.word w))) ∧
    t.table = s.table

/-- SEEDED is set by SEEDLD (of a method that exists), only reset clears it, and the five trial commands raise NOT_SEEDED
while it is 0 (10 R40). -/
def Obligations.SeededIsSetBySeedldAndClearedByResetAlone : Prop :=
  (∀ (m : BitVec 3) (raw : Word) (s : State), m.toNat ≤ 4 → ∃ t, exec (.seedld m raw) s = .next t ∧ t.seeded = true) ∧
  (∀ s t : State, step s = .next t → s.seeded = true → t.seeded = false → StepResets s) ∧
  (∀ s t : State, step s = .next t → s.seeded = false → t.seeded = true → ExecutesOneOf [.seedld] s) ∧
  (∀ s t : State, step s = .next t → StepResets s → t.seeded = false) ∧
  (∀ (i : Instr) (s : State), NeedsTrial i → s.err = false → s.seeded = false →
    exec i s = .next { s with err := true, errcode := .notSeeded })

/-- DONE is set by CHECK and SEAL, cleared by SEEDLD and reset, and the five trial commands raise TRIAL_CLOSED while it is 1
(10 R41). SEEDED = 1 is the invariant of 10 R54 for DONE = 1. -/
def Obligations.DoneClosesTheTrialUntilSeedldOrReset : Prop :=
  (∀ (i : Instr) (s : State), i.opcode ∈ [Opcode.check, .sealTrial] → s.TrialOpen → ∃ t, exec i s = .next t ∧ t.done = true) ∧
  (∀ s t : State, step s = .next t → s.done = false → t.done = true → ExecutesOneOf [.check, .sealTrial] s) ∧
  (∀ s t : State, step s = .next t → s.done = true → t.done = false → ExecutesOneOf [.seedld] s ∨ StepResets s) ∧
  (∀ (m : BitVec 3) (raw : Word) (s : State), m.toNat ≤ 4 → ∃ t, exec (.seedld m raw) s = .next t ∧ t.done = false) ∧
  (∀ s t : State, step s = .next t → StepResets s → t.done = false) ∧
  (∀ (i : Instr) (s : State), NeedsTrial i → s.err = false → s.seeded = true → s.done = true →
    exec i s = .next { s with err := true, errcode := .trialClosed })

/-- ERR and ERRCODE record the first error since reset: in a state that meets the invariants ERRCODE is NONE while ERR = 0,
and once ERR = 1 no step but a reset changes either (10 R43). -/
def Obligations.FirstErrorIsKeptUntilReset : Prop :=
  (∀ s : State, s.Inv → s.err = false → s.errcode = .none) ∧
  (∀ s t : State, step s = .next t → s.err = true → ¬StepResets s → t.err = true ∧ t.errcode = s.errcode) ∧
  (∀ s t : State, step s = .next t → StepResets s → t.err = false ∧ t.errcode = .none)

/-- W0 is hidden: no register read shows it, and while PEND = 0 no step depends on it, so that two runs that differ only in
W0 stay the same but for W0, and a step that latches a new word0 makes them equal (10 section 2, the latch). -/
def Obligations.LatchIsNeverReadWithoutPend : Prop :=
  ∀ (s : State) (v : Word),
    (∀ a : BitVec 3, readPort a { s with w0 := v } = readPort a s) ∧
    (s.pend = false → ∃ t u, step s = .next t ∧ step { s with w0 := v } = .next u ∧ SameButW0 t u ∧
      (t.pend = true → t = u))

/-! ### Reads, flags and the interrupt (spec 10 section 3 and 5, 60 section 2) -/

/-- Every field of STATUS stands at its bits, the reserved bits read 0, PHASE mirrors IDX[0], IRQ mirrors the irq line, and
all of it is 0 after reset (10 R39, R45, R46). -/
def Obligations.StatusReadsItsFieldsAtTheirBits : Prop :=
  (∀ s : State,
    (readPort 0#3 s).getLsbD 0 = s.seeded ∧ (readPort 0#3 s).getLsbD 1 = s.done ∧
    (readPort 0#3 s).getLsbD 2 = s.matchFlag ∧ (readPort 0#3 s).getLsbD 3 = s.err ∧
    (readPort 0#3 s).extractLsb' 4 4 = errCodeBits s.errcode ∧
    ((readPort 0#3 s).extractLsb' 8 3).toNat = s.method.val ∧
    (readPort 0#3 s).getLsbD 11 = s.pend ∧ (readPort 0#3 s).getLsbD 12 = s.idx.getLsbD 0 ∧
    (readPort 0#3 s).getLsbD 13 = irq s ∧ (readPort 0#3 s).extractLsb' 14 18 = 0#18) ∧
  readPort 0#3 State.reset = 0#32

/-- The register read port returns what 10 R50 lists at each of its eight addresses; CKSUM has CKA in bits 31:16 and CKB in
bits 15:0, from one state. -/
def Obligations.ReadPortReturnsTheListedRegisters : Prop :=
  ∀ s : State,
    readPort 0#3 s = statusWord s ∧ readPort 1#3 s = s.ctrl.setWidth 32 ∧ readPort 2#3 s = s.seed ∧
    readPort 3#3 s = s.rlast ∧ (readPort 4#3 s).extractLsb' 16 16 = s.cka ∧ (readPort 4#3 s).extractLsb' 0 16 = s.ckb ∧
    readPort 5#3 s = s.idx ∧ readPort 6#3 s = s.result ∧ readPort 7#3 s = 0x00000000#32

/-- irq is the level (DONE AND IE_DONE) OR (ERR AND IE_ERR) of the present state, mirrored in STATUS, with no latch of its
own: WCTL that clears the enables lowers it, and so do SEEDLD when ERR is 0, and both resets; while ERR = 1 a WCTL word is
discarded (60 R240). -/
def Obligations.InterruptIsTheLevelOfItsCauses : Prop :=
  (∀ s : State, irq s = ((s.done && s.ctrl.getLsbD 0) || (s.err && s.ctrl.getLsbD 1)) ∧
    (readPort 0#3 s).getLsbD 13 = irq s) ∧
  (∀ (s t : State), exec (.wctl 0#2) s = .next t → irq t = false) ∧
  (∀ (m : BitVec 3) (raw : Word) (s t : State), m.toNat ≤ 4 → s.err = false → exec (.seedld m raw) s = .next t →
    irq t = false) ∧
  (∀ s t : State, step s = .next t → StepResets s → irq t = false) ∧
  (∀ (e : BitVec 2) (s : State) (rest : List PortEvent), s.err = true → s.input = .word (encodeWord0 (.wctl e)) :: rest →
    step s = .next { s with input := rest })

/-! ### The generator and its commands (spec 40) -/

/-- The closed forms of the recurrence of 40 section 1: BX after step 3 is s[22:8] ++ s[31], CX after step 3 is s[6:0],
eight zeros and s[23], and the two sums are separate 16-bit sums. The spec's own closed form writes seven zeros, which is 15
bits and one bit short; the shift of the recurrence gives eight (log 16). -/
def Obligations.GeneratorHasItsClosedForm : Prop :=
  ∀ (d : MethodDescriptor) (s : Word) (bx3a cx3a bx' cx' : Half),
    bx3a = s.extractLsb' 8 15 ++ s.extractLsb' 31 1 →
    cx3a = (s.extractLsb' 0 7 ++ 0b00000000#8) ++ s.extractLsb' 23 1 →
    cx' = cx3a + s.extractLsb' 0 16 + d.pConst →
    bx' = bx3a + s.extractLsb' 16 16 + (s.extractLsb' 31 1).setWidth 16 + d.qConst + (s.extractLsb' 23 1).setWidth 16 →
    gen d s = (bx' ++ cx', cx' ++ bx')

/-- The output of a draw is the new state with its halves swapped (40 section 1). -/
def Obligations.GeneratorOutputIsTheNewStateSwapped : Prop :=
  ∀ (d : MethodDescriptor) (s : Word),
    (gen d s).2 = (gen d s).1.extractLsb' 0 16 ++ (gen d s).1.extractLsb' 16 16 ∧
    lowHalf (gen d s).2 = highHalf (gen d s).1 ∧ lowByte (gen d s).2 = (gen d s).1.extractLsb' 16 8

/-- The corner cases of 40 R137. With p = q = 0, state 0 is a fixed point, and a trial in which it is installed draws only
zero keys and passes its payload through unchanged, whichever of DBYTE and EBYTE each byte goes through. -/
def Obligations.GeneratorCornerCases : Prop :=
  (∀ mask, gen ⟨mask, 0#16, 0#16⟩ 0#32 = (0#32, 0#32)) ∧
  (∀ (command : Byte → Instr) (p : List Byte) (s : State), (∀ b, command b = .dbyte b ∨ command b = .ebyte b) →
    s.TrialOpen → s.err = false → s.pend = false → s.seed = 0#32 → s.rlast = 0#32 →
    (currentMethod s).pConst = 0#16 → (currentMethod s).qConst = 0#16 →
    ∃ t, streamBytes command p s = .next (p, t) ∧ t.seed = 0#32 ∧ t.rlast = 0#32) ∧
  (∀ mask, gen ⟨mask, 0xFFFF#16, 0xFFFF#16⟩ 0#32 = (0xFFFFFFFF#32, 0xFFFFFFFF#32)) ∧
  (∀ d : MethodDescriptor, gen d 0#32 = (d.qConst ++ d.pConst, d.pConst ++ d.qConst)) ∧
  (∀ mask, gen ⟨mask, 0#16, 0#16⟩ 0xFFFFFFFF#32 = (0x0000FE00#32, 0xFE000000#32))

/-- SEEDLD of a method that exists completes whether or not a trial is open, opens a trial with the seed RAW XOR seed_mask,
clears every trial register and leaves CTRL, the error registers, W0, PEND and the table as they were (40 section 2, SEEDLD).
The spec has SEEDLD run while ERR = 0; that the command's own rule does the same where ERR = 1, in which the port never runs
it, is the model's reading (log 6). -/
def Obligations.SeedldOpensATrial : Prop :=
  ∀ (m : BitVec 3) (k : Fin 5) (raw : Word) (s : State), m.toNat = k.val →
    exec (.seedld m raw) s = .next { s with
      seed := raw ^^^ (s.table.get k).seedMask, method := k, idx := 0#32, cka := 0#16, ckb := 0#16, rlast := 0#32,
      seeded := true, done := false, matchFlag := false, result := raw ^^^ (s.table.get k).seedMask }

/-- SEEDLD with M of 5, 6 or 7 raises BAD_METHOD and changes nothing but ERR and ERRCODE (40 R141). -/
def Obligations.SeedldRefusesMethodsFiveToSeven : Prop :=
  ∀ (m : BitVec 3) (raw : Word) (s : State), s.err = false → 5 ≤ m.toNat →
    exec (.seedld m raw) s = .next { s with err := true, errcode := .badMethod }

/-- Nothing of one trial is visible in the next: two states that differ in any of the trial's registers, but share CTRL, the
error registers and what belongs to the port, are the same state after the same SEEDLD (40 R142). -/
def Obligations.NothingOfATrialSurvivesSeedld : Prop :=
  ∀ (m : BitVec 3) (raw : Word) (s t : State), m.toNat ≤ 4 →
    s.ctrl = t.ctrl → s.err = t.err → s.errcode = t.errcode → s.pend = t.pend → s.w0 = t.w0 → s.table = t.table →
    s.input = t.input → s.resets = t.resets →
    ∃ u, exec (.seedld m raw) s = .next u ∧ exec (.seedld m raw) t = .next u ∧ u.ctrl = s.ctrl ∧ u.err = s.err

/-- NEXT in an open trial draws once: SEED takes the new state, RESULT the output, and nothing else changes (40 section 2,
NEXT). -/
def Obligations.NextDrawsOnce : Prop :=
  ∀ s : State, s.err = false → s.TrialOpen →
    exec .nextDraw s = .next { s with
      seed := (gen (s.table.get s.method) s.seed).1, result := (gen (s.table.get s.method) s.seed).2 }

/-- The frame of SEEDLD and NEXT: what each leaves unchanged whenever it answers a next state. ERR and ERRCODE change only
where the command raises its error. -/
def Obligations.GeneratorCommandsFrame : Prop :=
  (∀ (m : BitVec 3) (raw : Word) (s t : State), exec (.seedld m raw) s = .next t →
    t.ctrl = s.ctrl ∧ t.pend = s.pend ∧ t.w0 = s.w0 ∧ t.table = s.table ∧ t.input = s.input ∧ t.resets = s.resets ∧
    (m.toNat ≤ 4 → t.err = s.err ∧ t.errcode = s.errcode)) ∧
  (∀ s t : State, exec .nextDraw s = .next t →
    t.rlast = s.rlast ∧ t.cka = s.cka ∧ t.ckb = s.ckb ∧ t.idx = s.idx ∧ t.method = s.method ∧ t.seeded = s.seeded ∧
    t.done = s.done ∧ t.matchFlag = s.matchFlag ∧ t.ctrl = s.ctrl ∧ t.pend = s.pend ∧ t.w0 = s.w0 ∧
    t.table = s.table ∧ t.input = s.input ∧ t.resets = s.resets ∧
    (s.TrialOpen → t.err = s.err ∧ t.errcode = s.errcode) ∧
    (¬s.TrialOpen → t.seed = s.seed ∧ t.result = s.result))

/-! ### The payload commands (spec 41) -/

/-- The XOR step at an even index, for DBYTE and EBYTE: a fresh draw goes to SEED and RLAST and its low byte is XORed into
the byte; IDX advances and RESULT takes the output byte (41 R161, R163, R164; both commands complete). -/
def Obligations.EvenIndexByteIsXoredWithAFreshDraw : Prop :=
  ∀ (b out : Byte) (s : State) (s' r : Word), s.err = false → s.TrialOpen → s.idx.getLsbD 0 = false →
    gen (s.table.get s.method) s.seed = (s', r) → out = b ^^^ r.extractLsb' 0 8 →
    (∃ t, exec (.dbyte b) s = .next t ∧ t.seed = s' ∧ t.rlast = r ∧ t.idx = s.idx + 1#32 ∧ t.result = out.setWidth 32 ∧
      t.cka = s.cka + out.setWidth 16) ∧
    (∃ t, exec (.ebyte b) s = .next t ∧ t.seed = s' ∧ t.rlast = r ∧ t.idx = s.idx + 1#32 ∧ t.result = out.setWidth 32 ∧
      t.cka = s.cka + b.setWidth 16)

/-- The subtract step of DBYTE at an odd index draws nothing and reuses RLAST; EBYTE's step there adds the key byte instead,
and is its inverse (41 R162, R163, R171; both commands complete). -/
def Obligations.OddIndexByteReusesTheKeptDraw : Prop :=
  ∀ (b : Byte) (s : State), s.err = false → s.TrialOpen → s.idx.getLsbD 0 = true →
    (∃ t, exec (.dbyte b) s = .next t ∧ t.seed = s.seed ∧ t.rlast = s.rlast ∧ t.idx = s.idx + 1#32 ∧
      t.result = (b - s.rlast.extractLsb' 0 8).setWidth 32) ∧
    (∃ t, exec (.ebyte b) s = .next t ∧ t.seed = s.seed ∧ t.rlast = s.rlast ∧ t.idx = s.idx + 1#32 ∧
      t.result = (b + s.rlast.extractLsb' 0 8).setWidth 32) ∧
    (∀ t u v, exec (.ebyte b) s = .next t → exec (.dbyte (t.result.extractLsb' 0 8)) s = .next u →
      exec (.dbyte b) s = .next v → u.result = b.setWidth 32 ∧
      (∀ x, exec (.ebyte (v.result.extractLsb' 0 8)) s = .next x → x.result = b.setWidth 32))

/-- The next byte takes the other step: IDX[0] flips with every byte command, at the wrap of IDX too (41 R163). -/
def Obligations.ByteCommandsAlternateTheStep : Prop :=
  ∀ (i : Instr) (s : State), IsByteCommand i → s.err = false → s.TrialOpen →
    ∃ t, exec i s = .next t ∧ t.idx = s.idx + 1#32 ∧ t.idx.getLsbD 0 = !s.idx.getLsbD 0 ∧ t.TrialOpen

/-- Both checksums take the plaintext byte: DBYTE's output, EBYTE's input. A adds it modulo 2^16; B rotates the old value
left by 4 and then adds it (41 R165, R166, R167). -/
def Obligations.ChecksumsTakeThePlaintextByte : Prop :=
  ∀ (i : Instr) (pt : Byte) (s t : State), s.err = false → s.TrialOpen → exec i s = .next t →
    ((∃ b, i = .dbyte b) ∧ pt = t.result.extractLsb' 0 8 ∨ i = .ebyte pt) →
    t.cka = s.cka + pt.setWidth 16 ∧ t.ckb = (s.ckb.extractLsb' 0 12 ++ s.ckb.extractLsb' 12 4) + pt.setWidth 16

/-- Checksum A depends only on the multiset of the plaintext bytes, checksum B on their order: the plaintext 01 02 gives
0x0003 and 0x0012, and 02 01 gives 0x0003 and 0x0021 (41 R168). -/
def Obligations.ChecksumAIgnoresOrderAndChecksumBDoesNot : Prop :=
  (∀ (p q : List Byte) (s : State), p.Perm q → s.err = false → s.TrialOpen →
    ∃ t u, execAll (p.map .ebyte) s = .next t ∧ execAll (q.map .ebyte) s = .next u ∧ t.cka = u.cka) ∧
  (∀ s : State, s.err = false → s.TrialOpen → s.cka = 0#16 → s.ckb = 0#16 →
    ∃ t u, execAll [.ebyte 0x01#8, .ebyte 0x02#8] s = .next t ∧ execAll [.ebyte 0x02#8, .ebyte 0x01#8] s = .next u ∧
      t.cka = 0x0003#16 ∧ t.ckb = 0x0012#16 ∧ u.cka = 0x0003#16 ∧ u.ckb = 0x0021#16)

/-- DBYTE over the bytes that EBYTE produced gives the plaintext back, and both runs end with the same CKA, CKB, SEED, RLAST
and IDX, from any two open trials that stand at the same place of the same trajectory (41 R172). -/
def Obligations.DecryptingTheEncryptedBytesReturnsThePlaintext : Prop :=
  ∀ (p : List Byte) (s t : State),
    s.err = false → s.pend = false → s.TrialOpen → t.err = false → t.pend = false → t.TrialOpen →
    s.table = t.table → s.method = t.method → s.seed = t.seed → s.rlast = t.rlast → s.idx = t.idx →
    s.cka = t.cka → s.ckb = t.ckb →
    ∃ c s' t', streamBytes .ebyte p s = .next (c, s') ∧ streamBytes .dbyte c t = .next (p, t') ∧ c.length = p.length ∧
      s'.cka = t'.cka ∧ s'.ckb = t'.ckb ∧ s'.seed = t'.seed ∧ s'.rlast = t'.rlast ∧ s'.idx = t'.idx

/-- N byte commands of either direction after SEEDLD make ⌈N/2⌉ draws, and the final CHECK or SEAL one more: SEED is then
the installed seed advanced ⌈N/2⌉ + 1 times, and IDX is the number of payload bytes (41 R174). -/
def Obligations.PayloadMakesHalfAsManyDrawsAndOneMore : Prop :=
  ∀ (m : BitVec 3) (k : Fin 5) (raw : Word) (cmds : List Instr) (last : Instr) (s : State),
    m.toNat = k.val → s.err = false → (∀ i ∈ cmds, IsByteCommand i) → last.opcode ∈ [Opcode.check, .sealTrial] →
    (∃ t, execAll (.seedld m raw :: cmds) s = .next t ∧
      t.seed = (fun x => (gen (s.table.get k) x).1)^[(cmds.length + 1) / 2] (raw ^^^ (s.table.get k).seedMask) ∧
      t.idx = BitVec.ofNat 32 cmds.length) ∧
    (∃ t, execAll (.seedld m raw :: cmds ++ [last]) s = .next t ∧
      t.seed = (fun x => (gen (s.table.get k) x).1)^[(cmds.length + 1) / 2 + 1] (raw ^^^ (s.table.get k).seedMask) ∧
      t.idx = BitVec.ofNat 32 cmds.length)

/-- The frame of DBYTE and EBYTE: what each leaves unchanged whenever it answers a next state. At an odd index SEED and RLAST
are unchanged too, and ERR and ERRCODE change only where no trial is open. -/
def Obligations.PayloadCommandsFrame : Prop :=
  ∀ (i : Instr) (s t : State), IsByteCommand i → exec i s = .next t →
    t.method = s.method ∧ t.seeded = s.seeded ∧ t.done = s.done ∧ t.matchFlag = s.matchFlag ∧ t.ctrl = s.ctrl ∧
    t.pend = s.pend ∧ t.w0 = s.w0 ∧ t.table = s.table ∧ t.input = s.input ∧ t.resets = s.resets ∧
    (s.TrialOpen → t.err = s.err ∧ t.errcode = s.errcode) ∧
    (s.idx.getLsbD 0 = true → t.seed = s.seed ∧ t.rlast = s.rlast) ∧
    (¬s.TrialOpen → t.seed = s.seed ∧ t.rlast = s.rlast ∧ t.cka = s.cka ∧ t.ckb = s.ckb ∧ t.idx = s.idx ∧
      t.result = s.result)

/-! ### The closing commands (spec 42) -/

/-- CHECK in an open trial draws once, corrects the two halves in their two ways and compares both: MATCH is 1 exactly when
both agree, RESULT is expected_a ++ expected_b, DONE is set, and a mismatch is no error (42 R191, R192; CHECK
completes). -/
def Obligations.CheckCorrectsAndComparesBothHalves : Prop :=
  ∀ (a b : Half) (s : State) (s' rf : Word), s.err = false → s.TrialOpen →
    gen (s.table.get s.method) s.seed = (s', rf) →
    ∃ t, exec (.check a b) s = .next t ∧ t.seed = s' ∧ t.done = true ∧ t.err = false ∧
      t.result = (a ^^^ rf.extractLsb' 0 16) ++ (b - rf.extractLsb' 0 16) ∧
      (t.matchFlag = true ↔ s.cka = a ^^^ rf.extractLsb' 0 16 ∧ s.ckb = b - rf.extractLsb' 0 16) ∧
      rf.extractLsb' 0 16 = t.seed.extractLsb' 16 16

/-- SEAL in an open trial draws once and leaves CKA XOR rf[15:0] and CKB + rf[15:0] in RESULT; the two halves invert CHECK's
correction (42 section 2, SEAL; SEAL completes). -/
def Obligations.SealWritesTheTrailerThatCheckUndoes : Prop :=
  ∀ (s : State) (s' rf : Word) (fa fb : Half), s.err = false → s.TrialOpen →
    gen (s.table.get s.method) s.seed = (s', rf) → fa = s.cka ^^^ rf.extractLsb' 0 16 → fb = s.ckb + rf.extractLsb' 0 16 →
    exec .sealTrial s = .next { s with seed := s', done := true, matchFlag := false, result := fa ++ fb } ∧
    fa ^^^ rf.extractLsb' 0 16 = s.cka ∧ fb - rf.extractLsb' 0 16 = s.ckb

/-- MATCH is written only by CHECK, but for SEEDLD, SEAL and reset, which clear it. CHECK sets it to 1 exactly when CKA ++
CKB is expected_a ++ expected_b, which it leaves in RESULT, and a MATCH of 0 is no error (10 R42). -/
def Obligations.MatchIsSetByCheckAlone : Prop :=
  (∀ s t : State, step s = .next t → s.matchFlag = false → t.matchFlag = true → ExecutesOneOf [.check] s) ∧
  (∀ s t : State, step s = .next t → s.matchFlag = true → t.matchFlag = false →
    ExecutesOneOf [.check, .seedld, .sealTrial] s ∨ StepResets s) ∧
  (∀ (m : BitVec 3) (raw : Word) (s : State), m.toNat ≤ 4 → ∃ t, exec (.seedld m raw) s = .next t ∧ t.matchFlag = false) ∧
  (∀ s : State, s.err = false → s.TrialOpen → ∃ t, exec .sealTrial s = .next t ∧ t.matchFlag = false) ∧
  (∀ (a b : Half) (s : State), s.err = false → s.TrialOpen → ∃ t, exec (.check a b) s = .next t ∧ t.err = false ∧
    (t.matchFlag = true ↔ s.cka ++ s.ckb = t.result)) ∧
  (∀ s t : State, step s = .next t → StepResets s → t.matchFlag = false)

/-- The frame of CHECK and SEAL: what each leaves unchanged whenever it answers a next state. IDX, RLAST, CKA and CKB are
among it (42 section 2). -/
def Obligations.ClosingCommandsFrame : Prop :=
  ∀ (i : Instr) (s t : State), i.opcode ∈ [Opcode.check, .sealTrial] → exec i s = .next t →
    t.rlast = s.rlast ∧ t.cka = s.cka ∧ t.ckb = s.ckb ∧ t.idx = s.idx ∧ t.method = s.method ∧ t.seeded = s.seeded ∧
    t.ctrl = s.ctrl ∧ t.pend = s.pend ∧ t.w0 = s.w0 ∧ t.table = s.table ∧ t.input = s.input ∧ t.resets = s.resets ∧
    (s.TrialOpen → t.err = s.err ∧ t.errcode = s.errcode) ∧
    (¬s.TrialOpen → t.seed = s.seed ∧ t.result = s.result ∧ t.done = s.done ∧ t.matchFlag = s.matchFlag)

/-- A frame the host seals in one trial is accepted by a later trial of the same method, with the plaintext back and MATCH =
1: SEEDLD, EBYTE over the plaintext and SEAL build a file, whose parse, run through SEEDLD, DBYTE and CHECK, succeeds
(42 R196; the functions of the host are log 10). -/
def Obligations.SealedFrameIsAcceptedWithItsPlaintext : Prop :=
  ∀ (preamble : Preamble) (p : List Byte) (m : Fin 5) (raw : Word) (s : State),
    s.err = false → s.pend = false →
    ∃ file t, sealFile preamble m raw p s = .next (file, t) ∧
      ∀ s' : State, s'.table = s.table → s'.err = false → s'.pend = false →
        ∃ frame u, parseFrame preamble file = .ok frame ∧ frame.rawSeed = raw ∧ frame.payload.length = p.length ∧
          runTrial frame m s' = .next (.success p, u) ∧ u.matchFlag = true

/-! ### The control commands (spec 43) -/

/-- NOP completes in every state and leaves every register unchanged (43 section on NOP). -/
def Obligations.NopChangesNothing : Prop := ∀ s : State, exec .nop s = .next s

/-- WCTL completes whether or not a trial is open, writes CTRL[1:0] and nothing else, and CTRL[31:2] still reads 0 (43, WCTL;
10 section 3). The port discards a WCTL word while ERR = 1; that the command's own rule does the same there is the model's
reading (log 6). -/
def Obligations.WctlWritesTheTwoEnableBitsAlone : Prop :=
  ∀ (e : BitVec 2) (s : State),
    exec (.wctl e) s = .next { s with ctrl := e } ∧
    (∀ t, exec (.wctl e) s = .next t → (readPort 1#3 t).extractLsb' 0 2 = e ∧ (readPort 1#3 t).extractLsb' 2 30 = 0#30)

/-- SRST completes in every state: every register but W0 is that of the reset state, and the table stays (43, SRST). Of W0
nothing is said, since it is unspecified. That the words still presented stay is the model's choice (log 4). -/
def Obligations.SrstResetsEveryRegister : Prop :=
  ∀ s : State, ∃ t, exec .srst s = .next t ∧
    { t with w0 := 0#32, resets := 0 } = { State.reset with w0 := 0#32, table := s.table, input := s.input }

/-! ### Errors (spec 60) -/

/-- A step that raises an error is precise: from ERR = 0 to ERR = 1, nothing changes but ERR, ERRCODE, the word taken off the
port, and PEND, which the port clears with word1; the code is one of the five (60 R232). -/
def Obligations.ErrorsChangeOnlyTheErrorFields : Prop :=
  ∀ s t : State, step s = .next t → s.err = false → t.err = true →
    t = { s with err := true, errcode := t.errcode, pend := false, input := s.input.tail } ∧ t.errcode ≠ .none

/-- The error state is sticky over any run: while the host presents neither rst nor the word 0x10000000, any number of steps
discards the words presented and changes nothing else, ERRCODE included. A step leaves the error state exactly when it takes
rst or the SRST word (60 R233). -/
def Obligations.ErrorStateDiscardsEveryWord : Prop :=
  (∀ (n : Nat) (s : State), s.err = true → (∀ e ∈ s.input, e ≠ .rst ∧ e ≠ .word 0x10000000#32) →
    core.run n s = .next { s with input := s.input.drop n }) ∧
  (∀ s t : State, s.err = true → step s = .next t →
    (t.err = false ↔ s.input.head? = some .rst ∨ s.input.head? = some (.word 0x10000000#32)))

/-- The error codes and their causes: the code numbers of 60 R231; each code a step leaves is raised exactly by its cause,
where word0 is the latched word0 of a two-word command and the word on the port of any other; RESULT is kept. -/
def Obligations.EachErrorCodeHasItsCause : Prop :=
  ([ErrCode.none, .illegalOpcode, .reservedBits, .badMethod, .notSeeded, .trialClosed].map errCodeBits =
    [0#4, 1#4, 2#4, 3#4, 4#4, 5#4] ∧ ∀ e : ErrCode, (errCodeBits e).toNat ≤ 5) ∧
  ∀ (s t : State) (w word0 : Word) (rest : List PortEvent),
    step s = .next t → s.err = false → t.err = true → s.input = .word w :: rest → word0 = (if s.pend then s.w0 else w) →
    (t.errcode = .illegalOpcode ↔ 9 ≤ (word0.extractLsb' 28 4).toNat) ∧
    (t.errcode = .reservedBits ↔ ∃ op, opcodeOf (word0.extractLsb' 28 4) = some op ∧ word0 &&& reservedMask op ≠ 0#32) ∧
    (t.errcode = .badMethod ↔ ∃ m raw, executes s = some (.seedld m raw) ∧ 5 ≤ m.toNat) ∧
    (t.errcode = .notSeeded ↔ (∃ i, executes s = some i ∧ NeedsTrial i) ∧ s.seeded = false) ∧
    (t.errcode = .trialClosed ↔ (∃ i, executes s = some i ∧ NeedsTrial i) ∧ s.seeded = true ∧ s.done = true) ∧
    t.result = s.result

/-- SRST alone does not recover a block with PEND = 1, since the word is taken as word1. A host that reads STATUS.PEND and
sends a filler word of any value before SRST when it is set, else SRST alone, ends in the reset values, in the error state
too; so does rst (70 R285). -/
def Obligations.FillerThenSoftResetRecovers : Prop :=
  (∀ s : State, s.err = false → s.pend = true →
    acceptWord srstWord s = executeCommand s.w0 srstWord { s with pend := false }) ∧
  (∀ (filler : Word) (s : State),
    ((readPort 0#3 s).getLsbD 11 = true → recoverWords filler s = [filler, srstWord]) ∧
    ∃ t, sendWords (recoverWords filler s) s = .next t ∧ t.ResetValues) ∧
  (∀ s : State, ∃ t, acceptEvent .rst s = .next t ∧ t.ResetValues)

/-! ### The host's procedures (spec 20 section 2, 70 section 2, 30 section 5) -/

/-- The frame layout: parsing a file built from a preamble of 25 bytes, a raw seed, a payload and a trailer gives back the
big-endian seed, the payload and the two big-endian halves (20 section 2). -/
def Obligations.ParsingABuiltFrameReturnsItsFields : Prop :=
  ∀ (preamble : Preamble) (payload : List Byte) (raw trailer : Word),
    (frameFile preamble raw payload trailer).length = payload.length + 33 ∧
    parseFrame preamble (frameFile preamble raw payload trailer) =
      .ok ⟨raw, payload, trailer.extractLsb' 16 16, trailer.extractLsb' 0 16⟩

/-- A file that is too short, or whose preamble differs, fails before any command is sent: the block's state is untouched
(20 section 2, 70 section 2). -/
def Obligations.BadFramesStartNoTrial : Prop :=
  ∀ (preamble : Preamble) (file : List Byte) (s : State),
    (file.length < 33 → decodeFile preamble file s = .next (.error .truncatedInput, s)) ∧
    (33 ≤ file.length → file.take 25 ≠ preamble.toList → decodeFile preamble file s = .next (.error .formatMismatch, s))

/-- The method loop of 70 section 2, in the order 4, 3, 2, 1, 0, each trial starting from the state the one before left. It
returns a plaintext exactly when some trial succeeds with it and every earlier one gave WrongMethod; it fails as fatal
exactly when some trial is fatal and every earlier one gave WrongMethod; it fails with UnknownFormat exactly when all five
gave WrongMethod. From a state with ERR = 0 and PEND = 0 it is never fatal, and a plaintext comes with MATCH = 1, DONE = 1,
ERR = 0 and the method of its trial (the host's functions, and ERR looked at before MATCH, are log 10). -/
def Obligations.AcceptedPlaintextComesFromTheFirstMatchingTrial : Prop :=
  ∀ (preamble : Preamble) (file : List Byte) (s t : State),
    (∀ p, decodeFile preamble file s = .next (.ok p, t) ↔
      ∃ frame pre m post s', parseFrame preamble file = .ok frame ∧ [4, 3, 2, 1, 0] = pre ++ m :: post ∧
        WrongTrials frame pre s s' ∧ runTrial frame m s' = .next (.success p, t)) ∧
    (decodeFile preamble file s = .next (.error .fatal, t) ↔
      ∃ frame pre m post s', parseFrame preamble file = .ok frame ∧ [4, 3, 2, 1, 0] = pre ++ m :: post ∧
        WrongTrials frame pre s s' ∧ runTrial frame m s' = .next (.fatal, t)) ∧
    (decodeFile preamble file s = .next (.error .unknownFormat, t) ↔
      ∃ frame, parseFrame preamble file = .ok frame ∧ WrongTrials frame [4, 3, 2, 1, 0] s t) ∧
    (s.err = false → s.pend = false →
      decodeFile preamble file s ≠ .next (.error .fatal, t) ∧
      ∀ frame pre m s' p, WrongTrials frame pre s s' → runTrial frame m s' = .next (.success p, t) →
        t.matchFlag = true ∧ t.done = true ∧ t.err = false ∧ t.method = m ∧ t.table = s.table)

/-- The password has eight bytes, and byte i of it is byte i of PASSWORD_CONST less 11·(i+1), modulo 256. A whole decode
answers a value exactly when the container decoder makes it of a decoded plaintext and that password; it fails as
ContainerDecodeFailed exactly when that decoder refuses the two, and with any other failure exactly when the decode of the
file fails with it, whatever the container decoder does (70 section 2; the host's functions are log 10). -/
def Obligations.PasswordSubtractsElevenPerPosition : Prop :=
  (∀ (secret : Password) (i : Fin 8),
    (resolvePassword secret).get i = secret.get i - BitVec.ofNat 8 (11 * (i.val + 1))) ∧
  (∀ (preamble : Preamble) (secret : Password) (container : List Byte → Password → Option (List Byte))
      (file : List Byte) (s t : State),
    (∀ a, decodeQuest preamble secret container file s = .next (.ok a, t) ↔
      ∃ p, decodeFile preamble file s = .next (.ok p, t) ∧ container p (resolvePassword secret) = some a) ∧
    (decodeQuest preamble secret container file s = .next (.error .containerDecodeFailed, t) ↔
      ∃ p, decodeFile preamble file s = .next (.ok p, t) ∧ container p (resolvePassword secret) = none) ∧
    (∀ e, e ≠ .containerDecodeFailed →
      (decodeQuest preamble secret container file s = .next (.error e, t) ↔
        decodeFile preamble file s = .next (.error e, t))))

/-- The assembler takes an operand exactly when it fits its field, and refuses the statement otherwise, for every operand of
every statement: M in 3 bits, RAW and W in 32, a byte in 8, A and B in 16, E in 2. What it takes are the commands 30 section 5
lists; the pseudo-instructions expand in order. -/
def Obligations.AssemblerChecksFieldsAndExpands : Prop :=
  (assembleStatement .nop = .ok [.nop] ∧ assembleStatement .srst = .ok [.srst] ∧
    assembleStatement .nextDraw = .ok [.nextDraw] ∧ assembleStatement .sealTrial = .ok [.sealTrial]) ∧
  (∀ m raw : Nat, assembleStatement (.seedld m raw) =
    if m < 2 ^ 3 ∧ raw < 2 ^ 32 then .ok [.seedld (BitVec.ofNat 3 m) (BitVec.ofNat 32 raw)] else .error .operandRange) ∧
  (∀ b : Nat, assembleStatement (.dbyte b) =
    if b < 2 ^ 8 then .ok [.dbyte (BitVec.ofNat 8 b)] else .error .operandRange) ∧
  (∀ b : Nat, assembleStatement (.ebyte b) =
    if b < 2 ^ 8 then .ok [.ebyte (BitVec.ofNat 8 b)] else .error .operandRange) ∧
  (∀ a b : Nat, assembleStatement (.check a b) =
    if a < 2 ^ 16 ∧ b < 2 ^ 16 then .ok [.check (BitVec.ofNat 16 a) (BitVec.ofNat 16 b)] else .error .operandRange) ∧
  (∀ e : Nat, assembleStatement (.wctl e) =
    if e < 2 ^ 2 then .ok [.wctl (BitVec.ofNat 2 e)] else .error .operandRange) ∧
  (∀ bs : List Nat, assembleStatement (.dstream bs) =
    if ∀ b ∈ bs, b < 2 ^ 8 then .ok (bs.map fun b => .dbyte (BitVec.ofNat 8 b)) else .error .operandRange) ∧
  (∀ bs : List Nat, assembleStatement (.estream bs) =
    if ∀ b ∈ bs, b < 2 ^ 8 then .ok (bs.map fun b => .ebyte (BitVec.ofNat 8 b)) else .error .operandRange) ∧
  (∀ w : Nat, assembleStatement (.checkw w) =
    if w < 2 ^ 32 then .ok [.check (BitVec.ofNat 16 (w / 2 ^ 16)) (BitVec.ofNat 16 (w % 2 ^ 16))]
    else .error .operandRange) ∧
  (∀ (m raw : Nat) (bs : List Nat) (a b : Nat), assembleStatement (.trial m raw bs a b) =
    if (m < 2 ^ 3 ∧ raw < 2 ^ 32) ∧ (∀ x ∈ bs, x < 2 ^ 8) ∧ a < 2 ^ 16 ∧ b < 2 ^ 16 then
      .ok (.seedld (BitVec.ofNat 3 m) (BitVec.ofNat 32 raw) ::
        bs.map (fun x => .dbyte (BitVec.ofNat 8 x)) ++ [.check (BitVec.ofNat 16 a) (BitVec.ofNat 16 b)])
    else .error .operandRange)
end

