-- ==== Sys2Proof/Laws/Decode.lean ====
section
/-! SUPPORT. Small facts about the decoder and the encoder. -/

namespace Sys2Proof

/-- A word whose OP field is reserved decodes to nothing. -/
theorem decodeCommand_illegal {word0 word1 : Word} (h : opcodeOf (opField word0) = none) :
    decodeCommand word0 word1 = .error .illegalOpcode := by simp [decodeCommand, h]

/-- A word with a command's OP and no reserved bit set decodes to that command. -/
theorem decodeCommand_ok {word0 word1 : Word} {op : Opcode} (h : opcodeOf (opField word0) = some op)
    (hr : word0 &&& reservedMask op = 0#32) : decodeCommand word0 word1 = .ok (operandsOf op word0 word1) := by
  simp [decodeCommand, h, hr]

/-- A word with a command's OP and a reserved bit set is refused for it. -/
theorem decodeCommand_reserved {word0 word1 : Word} {op : Opcode} (h : opcodeOf (opField word0) = some op)
    (hr : word0 &&& reservedMask op ≠ 0#32) : decodeCommand word0 word1 = .error .reservedBits := by
  simp [decodeCommand, h, hr]

/-- Everything the decoder can answer for one command. -/
theorem decodeCommand_cases (word0 word1 : Word) :
    (opcodeOf (opField word0) = none ∧ decodeCommand word0 word1 = .error .illegalOpcode) ∨
    ∃ op, opcodeOf (opField word0) = some op ∧
      ((word0 &&& reservedMask op = 0#32 ∧ decodeCommand word0 word1 = .ok (operandsOf op word0 word1)) ∨
       (word0 &&& reservedMask op ≠ 0#32 ∧ decodeCommand word0 word1 = .error .reservedBits)) := by
  rcases h : opcodeOf (opField word0) with _ | op
  · exact .inl ⟨rfl, decodeCommand_illegal h⟩
  · refine .inr ⟨op, rfl, ?_⟩
    by_cases hr : word0 &&& reservedMask op = 0#32
    · exact .inl ⟨hr, decodeCommand_ok h hr⟩
    · exact .inr ⟨hr, decodeCommand_reserved h hr⟩

/-- The instruction built from a command's fields belongs to that command. -/
@[simp] theorem opcode_operandsOf (op : Opcode) (word0 word1 : Word) : (operandsOf op word0 word1).opcode = op := by
  cases op <;> rfl

/-- What a first word of two asks of its OP field. -/
theorem isTwoWord_iff (word0 : Word) :
    isTwoWord word0 = true ↔ word0.extractLsb' 28 4 = 2#4 ∨ word0.extractLsb' 28 4 = 6#4 := by
  simp [isTwoWord, opField]

end Sys2Proof
end

