-- ==== Sys2Proof/Laws/State.lean ====
section
/-! SUPPORT. What each shared update does to each field of the state: one lemma per field per update. -/

namespace Sys2Proof.Machine

/-! ### `resetBlock` -/

@[simp] theorem resetBlock_seed (s : State) : (resetBlock s).seed = 0#32 := rfl
@[simp] theorem resetBlock_rlast (s : State) : (resetBlock s).rlast = 0#32 := rfl
@[simp] theorem resetBlock_cka (s : State) : (resetBlock s).cka = 0#16 := rfl
@[simp] theorem resetBlock_ckb (s : State) : (resetBlock s).ckb = 0#16 := rfl
@[simp] theorem resetBlock_idx (s : State) : (resetBlock s).idx = 0#32 := rfl
@[simp] theorem resetBlock_method (s : State) : (resetBlock s).method = 0 := rfl
@[simp] theorem resetBlock_result (s : State) : (resetBlock s).result = 0#32 := rfl
@[simp] theorem resetBlock_seeded (s : State) : (resetBlock s).seeded = false := rfl
@[simp] theorem resetBlock_done (s : State) : (resetBlock s).done = false := rfl
@[simp] theorem resetBlock_matchFlag (s : State) : (resetBlock s).matchFlag = false := rfl
@[simp] theorem resetBlock_err (s : State) : (resetBlock s).err = false := rfl
@[simp] theorem resetBlock_errcode (s : State) : (resetBlock s).errcode = .none := rfl
@[simp] theorem resetBlock_ctrl (s : State) : (resetBlock s).ctrl = 0#2 := rfl
@[simp] theorem resetBlock_pend (s : State) : (resetBlock s).pend = false := rfl
@[simp] theorem resetBlock_w0 (s : State) : (resetBlock s).w0 = Config.w0AfterReset s.resets := rfl
@[simp] theorem resetBlock_table (s : State) : (resetBlock s).table = s.table := rfl
@[simp] theorem resetBlock_input (s : State) : (resetBlock s).input = s.input := rfl
@[simp] theorem resetBlock_resets (s : State) : (resetBlock s).resets = s.resets + 1 := rfl

/-! ### `drawState` -/

@[simp] theorem drawState_seed (s : State) : (drawState s).seed = (gen (currentMethod s) s.seed).1 := rfl
@[simp] theorem drawState_rlast (s : State) : (drawState s).rlast = s.rlast := rfl
@[simp] theorem drawState_cka (s : State) : (drawState s).cka = s.cka := rfl
@[simp] theorem drawState_ckb (s : State) : (drawState s).ckb = s.ckb := rfl
@[simp] theorem drawState_idx (s : State) : (drawState s).idx = s.idx := rfl
@[simp] theorem drawState_method (s : State) : (drawState s).method = s.method := rfl
@[simp] theorem drawState_result (s : State) : (drawState s).result = s.result := rfl
@[simp] theorem drawState_seeded (s : State) : (drawState s).seeded = s.seeded := rfl
@[simp] theorem drawState_done (s : State) : (drawState s).done = s.done := rfl
@[simp] theorem drawState_matchFlag (s : State) : (drawState s).matchFlag = s.matchFlag := rfl
@[simp] theorem drawState_err (s : State) : (drawState s).err = s.err := rfl
@[simp] theorem drawState_errcode (s : State) : (drawState s).errcode = s.errcode := rfl
@[simp] theorem drawState_ctrl (s : State) : (drawState s).ctrl = s.ctrl := rfl
@[simp] theorem drawState_pend (s : State) : (drawState s).pend = s.pend := rfl
@[simp] theorem drawState_w0 (s : State) : (drawState s).w0 = s.w0 := rfl
@[simp] theorem drawState_table (s : State) : (drawState s).table = s.table := rfl
@[simp] theorem drawState_input (s : State) : (drawState s).input = s.input := rfl
@[simp] theorem drawState_resets (s : State) : (drawState s).resets = s.resets := rfl

/-! ### `xorDraw` -/

@[simp] theorem xorDraw_seed (s : State) : (xorDraw s).seed = (gen (currentMethod s) s.seed).1 := rfl
@[simp] theorem xorDraw_rlast (s : State) : (xorDraw s).rlast = drawOutput s := rfl
@[simp] theorem xorDraw_cka (s : State) : (xorDraw s).cka = s.cka := rfl
@[simp] theorem xorDraw_ckb (s : State) : (xorDraw s).ckb = s.ckb := rfl
@[simp] theorem xorDraw_idx (s : State) : (xorDraw s).idx = s.idx := rfl
@[simp] theorem xorDraw_method (s : State) : (xorDraw s).method = s.method := rfl
@[simp] theorem xorDraw_result (s : State) : (xorDraw s).result = s.result := rfl
@[simp] theorem xorDraw_seeded (s : State) : (xorDraw s).seeded = s.seeded := rfl
@[simp] theorem xorDraw_done (s : State) : (xorDraw s).done = s.done := rfl
@[simp] theorem xorDraw_matchFlag (s : State) : (xorDraw s).matchFlag = s.matchFlag := rfl
@[simp] theorem xorDraw_err (s : State) : (xorDraw s).err = s.err := rfl
@[simp] theorem xorDraw_errcode (s : State) : (xorDraw s).errcode = s.errcode := rfl
@[simp] theorem xorDraw_ctrl (s : State) : (xorDraw s).ctrl = s.ctrl := rfl
@[simp] theorem xorDraw_pend (s : State) : (xorDraw s).pend = s.pend := rfl
@[simp] theorem xorDraw_w0 (s : State) : (xorDraw s).w0 = s.w0 := rfl
@[simp] theorem xorDraw_table (s : State) : (xorDraw s).table = s.table := rfl
@[simp] theorem xorDraw_input (s : State) : (xorDraw s).input = s.input := rfl
@[simp] theorem xorDraw_resets (s : State) : (xorDraw s).resets = s.resets := rfl

/-! ### `accumulate` -/

@[simp] theorem accumulate_seed (pt : Byte) (s : State) : (accumulate pt s).seed = s.seed := rfl
@[simp] theorem accumulate_rlast (pt : Byte) (s : State) : (accumulate pt s).rlast = s.rlast := rfl
@[simp] theorem accumulate_cka (pt : Byte) (s : State) : (accumulate pt s).cka = s.cka + zext16 pt := rfl
@[simp] theorem accumulate_ckb (pt : Byte) (s : State) : (accumulate pt s).ckb = rotl16 s.ckb 4 + zext16 pt := rfl
@[simp] theorem accumulate_idx (pt : Byte) (s : State) : (accumulate pt s).idx = s.idx := rfl
@[simp] theorem accumulate_method (pt : Byte) (s : State) : (accumulate pt s).method = s.method := rfl
@[simp] theorem accumulate_result (pt : Byte) (s : State) : (accumulate pt s).result = s.result := rfl
@[simp] theorem accumulate_seeded (pt : Byte) (s : State) : (accumulate pt s).seeded = s.seeded := rfl
@[simp] theorem accumulate_done (pt : Byte) (s : State) : (accumulate pt s).done = s.done := rfl
@[simp] theorem accumulate_matchFlag (pt : Byte) (s : State) : (accumulate pt s).matchFlag = s.matchFlag := rfl
@[simp] theorem accumulate_err (pt : Byte) (s : State) : (accumulate pt s).err = s.err := rfl
@[simp] theorem accumulate_errcode (pt : Byte) (s : State) : (accumulate pt s).errcode = s.errcode := rfl
@[simp] theorem accumulate_ctrl (pt : Byte) (s : State) : (accumulate pt s).ctrl = s.ctrl := rfl
@[simp] theorem accumulate_pend (pt : Byte) (s : State) : (accumulate pt s).pend = s.pend := rfl
@[simp] theorem accumulate_w0 (pt : Byte) (s : State) : (accumulate pt s).w0 = s.w0 := rfl
@[simp] theorem accumulate_table (pt : Byte) (s : State) : (accumulate pt s).table = s.table := rfl
@[simp] theorem accumulate_input (pt : Byte) (s : State) : (accumulate pt s).input = s.input := rfl
@[simp] theorem accumulate_resets (pt : Byte) (s : State) : (accumulate pt s).resets = s.resets := rfl

/-! ### `finishByte` -/

@[simp] theorem finishByte_seed (out : Byte) (s : State) : (finishByte out s).seed = s.seed := rfl
@[simp] theorem finishByte_rlast (out : Byte) (s : State) : (finishByte out s).rlast = s.rlast := rfl
@[simp] theorem finishByte_cka (out : Byte) (s : State) : (finishByte out s).cka = s.cka := rfl
@[simp] theorem finishByte_ckb (out : Byte) (s : State) : (finishByte out s).ckb = s.ckb := rfl
@[simp] theorem finishByte_idx (out : Byte) (s : State) : (finishByte out s).idx = s.idx + 1#32 := rfl
@[simp] theorem finishByte_method (out : Byte) (s : State) : (finishByte out s).method = s.method := rfl
@[simp] theorem finishByte_result (out : Byte) (s : State) : (finishByte out s).result = zext32 out := rfl
@[simp] theorem finishByte_seeded (out : Byte) (s : State) : (finishByte out s).seeded = s.seeded := rfl
@[simp] theorem finishByte_done (out : Byte) (s : State) : (finishByte out s).done = s.done := rfl
@[simp] theorem finishByte_matchFlag (out : Byte) (s : State) : (finishByte out s).matchFlag = s.matchFlag := rfl
@[simp] theorem finishByte_err (out : Byte) (s : State) : (finishByte out s).err = s.err := rfl
@[simp] theorem finishByte_errcode (out : Byte) (s : State) : (finishByte out s).errcode = s.errcode := rfl
@[simp] theorem finishByte_ctrl (out : Byte) (s : State) : (finishByte out s).ctrl = s.ctrl := rfl
@[simp] theorem finishByte_pend (out : Byte) (s : State) : (finishByte out s).pend = s.pend := rfl
@[simp] theorem finishByte_w0 (out : Byte) (s : State) : (finishByte out s).w0 = s.w0 := rfl
@[simp] theorem finishByte_table (out : Byte) (s : State) : (finishByte out s).table = s.table := rfl
@[simp] theorem finishByte_input (out : Byte) (s : State) : (finishByte out s).input = s.input := rfl
@[simp] theorem finishByte_resets (out : Byte) (s : State) : (finishByte out s).resets = s.resets := rfl

/-! ### `closeTrial` -/

@[simp] theorem closeTrial_seed (matched : Bool) (res : Word) (s : State) : (closeTrial matched res s).seed = (gen (currentMethod s) s.seed).1 := rfl
@[simp] theorem closeTrial_rlast (matched : Bool) (res : Word) (s : State) : (closeTrial matched res s).rlast = s.rlast := rfl
@[simp] theorem closeTrial_cka (matched : Bool) (res : Word) (s : State) : (closeTrial matched res s).cka = s.cka := rfl
@[simp] theorem closeTrial_ckb (matched : Bool) (res : Word) (s : State) : (closeTrial matched res s).ckb = s.ckb := rfl
@[simp] theorem closeTrial_idx (matched : Bool) (res : Word) (s : State) : (closeTrial matched res s).idx = s.idx := rfl
@[simp] theorem closeTrial_method (matched : Bool) (res : Word) (s : State) : (closeTrial matched res s).method = s.method := rfl
@[simp] theorem closeTrial_result (matched : Bool) (res : Word) (s : State) : (closeTrial matched res s).result = res := rfl
@[simp] theorem closeTrial_seeded (matched : Bool) (res : Word) (s : State) : (closeTrial matched res s).seeded = s.seeded := rfl
@[simp] theorem closeTrial_done (matched : Bool) (res : Word) (s : State) : (closeTrial matched res s).done = true := rfl
@[simp] theorem closeTrial_matchFlag (matched : Bool) (res : Word) (s : State) : (closeTrial matched res s).matchFlag = matched := rfl
@[simp] theorem closeTrial_err (matched : Bool) (res : Word) (s : State) : (closeTrial matched res s).err = s.err := rfl
@[simp] theorem closeTrial_errcode (matched : Bool) (res : Word) (s : State) : (closeTrial matched res s).errcode = s.errcode := rfl
@[simp] theorem closeTrial_ctrl (matched : Bool) (res : Word) (s : State) : (closeTrial matched res s).ctrl = s.ctrl := rfl
@[simp] theorem closeTrial_pend (matched : Bool) (res : Word) (s : State) : (closeTrial matched res s).pend = s.pend := rfl
@[simp] theorem closeTrial_w0 (matched : Bool) (res : Word) (s : State) : (closeTrial matched res s).w0 = s.w0 := rfl
@[simp] theorem closeTrial_table (matched : Bool) (res : Word) (s : State) : (closeTrial matched res s).table = s.table := rfl
@[simp] theorem closeTrial_input (matched : Bool) (res : Word) (s : State) : (closeTrial matched res s).input = s.input := rfl
@[simp] theorem closeTrial_resets (matched : Bool) (res : Word) (s : State) : (closeTrial matched res s).resets = s.resets := rfl

/-! ### `openTrial` -/

@[simp] theorem openTrial_seed (m : Fin 5) (raw : Word) (s : State) : (openTrial m raw s).seed = installedSeed m raw s := rfl
@[simp] theorem openTrial_rlast (m : Fin 5) (raw : Word) (s : State) : (openTrial m raw s).rlast = 0#32 := rfl
@[simp] theorem openTrial_cka (m : Fin 5) (raw : Word) (s : State) : (openTrial m raw s).cka = 0#16 := rfl
@[simp] theorem openTrial_ckb (m : Fin 5) (raw : Word) (s : State) : (openTrial m raw s).ckb = 0#16 := rfl
@[simp] theorem openTrial_idx (m : Fin 5) (raw : Word) (s : State) : (openTrial m raw s).idx = 0#32 := rfl
@[simp] theorem openTrial_method (m : Fin 5) (raw : Word) (s : State) : (openTrial m raw s).method = m := rfl
@[simp] theorem openTrial_result (m : Fin 5) (raw : Word) (s : State) : (openTrial m raw s).result = installedSeed m raw s := rfl
@[simp] theorem openTrial_seeded (m : Fin 5) (raw : Word) (s : State) : (openTrial m raw s).seeded = true := rfl
@[simp] theorem openTrial_done (m : Fin 5) (raw : Word) (s : State) : (openTrial m raw s).done = false := rfl
@[simp] theorem openTrial_matchFlag (m : Fin 5) (raw : Word) (s : State) : (openTrial m raw s).matchFlag = false := rfl
@[simp] theorem openTrial_err (m : Fin 5) (raw : Word) (s : State) : (openTrial m raw s).err = s.err := rfl
@[simp] theorem openTrial_errcode (m : Fin 5) (raw : Word) (s : State) : (openTrial m raw s).errcode = s.errcode := rfl
@[simp] theorem openTrial_ctrl (m : Fin 5) (raw : Word) (s : State) : (openTrial m raw s).ctrl = s.ctrl := rfl
@[simp] theorem openTrial_pend (m : Fin 5) (raw : Word) (s : State) : (openTrial m raw s).pend = s.pend := rfl
@[simp] theorem openTrial_w0 (m : Fin 5) (raw : Word) (s : State) : (openTrial m raw s).w0 = s.w0 := rfl
@[simp] theorem openTrial_table (m : Fin 5) (raw : Word) (s : State) : (openTrial m raw s).table = s.table := rfl
@[simp] theorem openTrial_input (m : Fin 5) (raw : Word) (s : State) : (openTrial m raw s).input = s.input := rfl
@[simp] theorem openTrial_resets (m : Fin 5) (raw : Word) (s : State) : (openTrial m raw s).resets = s.resets := rfl

/-! ### `nextEffect` -/

@[simp] theorem nextEffect_seed (s : State) : (nextEffect s).seed = (gen (currentMethod s) s.seed).1 := rfl
@[simp] theorem nextEffect_rlast (s : State) : (nextEffect s).rlast = s.rlast := rfl
@[simp] theorem nextEffect_cka (s : State) : (nextEffect s).cka = s.cka := rfl
@[simp] theorem nextEffect_ckb (s : State) : (nextEffect s).ckb = s.ckb := rfl
@[simp] theorem nextEffect_idx (s : State) : (nextEffect s).idx = s.idx := rfl
@[simp] theorem nextEffect_method (s : State) : (nextEffect s).method = s.method := rfl
@[simp] theorem nextEffect_result (s : State) : (nextEffect s).result = drawOutput s := rfl
@[simp] theorem nextEffect_seeded (s : State) : (nextEffect s).seeded = s.seeded := rfl
@[simp] theorem nextEffect_done (s : State) : (nextEffect s).done = s.done := rfl
@[simp] theorem nextEffect_matchFlag (s : State) : (nextEffect s).matchFlag = s.matchFlag := rfl
@[simp] theorem nextEffect_err (s : State) : (nextEffect s).err = s.err := rfl
@[simp] theorem nextEffect_errcode (s : State) : (nextEffect s).errcode = s.errcode := rfl
@[simp] theorem nextEffect_ctrl (s : State) : (nextEffect s).ctrl = s.ctrl := rfl
@[simp] theorem nextEffect_pend (s : State) : (nextEffect s).pend = s.pend := rfl
@[simp] theorem nextEffect_w0 (s : State) : (nextEffect s).w0 = s.w0 := rfl
@[simp] theorem nextEffect_table (s : State) : (nextEffect s).table = s.table := rfl
@[simp] theorem nextEffect_input (s : State) : (nextEffect s).input = s.input := rfl
@[simp] theorem nextEffect_resets (s : State) : (nextEffect s).resets = s.resets := rfl

/-! ### `raiseError` -/

@[simp] theorem raiseError_seed (e : ErrCode) (s : State) : (raiseError e s).seed = s.seed := by
  unfold raiseError; split <;> rfl
@[simp] theorem raiseError_rlast (e : ErrCode) (s : State) : (raiseError e s).rlast = s.rlast := by
  unfold raiseError; split <;> rfl
@[simp] theorem raiseError_cka (e : ErrCode) (s : State) : (raiseError e s).cka = s.cka := by
  unfold raiseError; split <;> rfl
@[simp] theorem raiseError_ckb (e : ErrCode) (s : State) : (raiseError e s).ckb = s.ckb := by
  unfold raiseError; split <;> rfl
@[simp] theorem raiseError_idx (e : ErrCode) (s : State) : (raiseError e s).idx = s.idx := by
  unfold raiseError; split <;> rfl
@[simp] theorem raiseError_method (e : ErrCode) (s : State) : (raiseError e s).method = s.method := by
  unfold raiseError; split <;> rfl
@[simp] theorem raiseError_result (e : ErrCode) (s : State) : (raiseError e s).result = s.result := by
  unfold raiseError; split <;> rfl
@[simp] theorem raiseError_seeded (e : ErrCode) (s : State) : (raiseError e s).seeded = s.seeded := by
  unfold raiseError; split <;> rfl
@[simp] theorem raiseError_done (e : ErrCode) (s : State) : (raiseError e s).done = s.done := by
  unfold raiseError; split <;> rfl
@[simp] theorem raiseError_matchFlag (e : ErrCode) (s : State) : (raiseError e s).matchFlag = s.matchFlag := by
  unfold raiseError; split <;> rfl
@[simp] theorem raiseError_ctrl (e : ErrCode) (s : State) : (raiseError e s).ctrl = s.ctrl := by
  unfold raiseError; split <;> rfl
@[simp] theorem raiseError_pend (e : ErrCode) (s : State) : (raiseError e s).pend = s.pend := by
  unfold raiseError; split <;> rfl
@[simp] theorem raiseError_w0 (e : ErrCode) (s : State) : (raiseError e s).w0 = s.w0 := by
  unfold raiseError; split <;> rfl
@[simp] theorem raiseError_table (e : ErrCode) (s : State) : (raiseError e s).table = s.table := by
  unfold raiseError; split <;> rfl
@[simp] theorem raiseError_input (e : ErrCode) (s : State) : (raiseError e s).input = s.input := by
  unfold raiseError; split <;> rfl
@[simp] theorem raiseError_resets (e : ErrCode) (s : State) : (raiseError e s).resets = s.resets := by
  unfold raiseError; split <;> rfl
@[simp] theorem raiseError_err (e : ErrCode) (s : State) : (raiseError e s).err = true := by
  unfold raiseError; split <;> simp_all

/-! ### `stepKey` -/

@[simp] theorem stepKey_cka (s : State) : (stepKey s).cka = s.cka := by
  unfold stepKey; split <;> rfl
@[simp] theorem stepKey_ckb (s : State) : (stepKey s).ckb = s.ckb := by
  unfold stepKey; split <;> rfl
@[simp] theorem stepKey_idx (s : State) : (stepKey s).idx = s.idx := by
  unfold stepKey; split <;> rfl
@[simp] theorem stepKey_method (s : State) : (stepKey s).method = s.method := by
  unfold stepKey; split <;> rfl
@[simp] theorem stepKey_result (s : State) : (stepKey s).result = s.result := by
  unfold stepKey; split <;> rfl
@[simp] theorem stepKey_seeded (s : State) : (stepKey s).seeded = s.seeded := by
  unfold stepKey; split <;> rfl
@[simp] theorem stepKey_done (s : State) : (stepKey s).done = s.done := by
  unfold stepKey; split <;> rfl
@[simp] theorem stepKey_matchFlag (s : State) : (stepKey s).matchFlag = s.matchFlag := by
  unfold stepKey; split <;> rfl
@[simp] theorem stepKey_err (s : State) : (stepKey s).err = s.err := by
  unfold stepKey; split <;> rfl
@[simp] theorem stepKey_errcode (s : State) : (stepKey s).errcode = s.errcode := by
  unfold stepKey; split <;> rfl
@[simp] theorem stepKey_ctrl (s : State) : (stepKey s).ctrl = s.ctrl := by
  unfold stepKey; split <;> rfl
@[simp] theorem stepKey_pend (s : State) : (stepKey s).pend = s.pend := by
  unfold stepKey; split <;> rfl
@[simp] theorem stepKey_w0 (s : State) : (stepKey s).w0 = s.w0 := by
  unfold stepKey; split <;> rfl
@[simp] theorem stepKey_table (s : State) : (stepKey s).table = s.table := by
  unfold stepKey; split <;> rfl
@[simp] theorem stepKey_input (s : State) : (stepKey s).input = s.input := by
  unfold stepKey; split <;> rfl
@[simp] theorem stepKey_resets (s : State) : (stepKey s).resets = s.resets := by
  unfold stepKey; split <;> rfl

end Sys2Proof.Machine
end

