-- ==== Sys2Proof/Laws/Ops.lean ====
section
/-! SUPPORT. What each shared operation can do, said once, for the proofs to cite in place of its definition. -/

namespace Sys2Proof.Machine

/-! ### Errors and the guard -/

/-- Raising an error with ERR = 0 writes ERR and ERRCODE and nothing else. -/
theorem raiseError_of_no_err {e : ErrCode} {s : State} (h : s.err = false) :
    raiseError e s = { s with err := true, errcode := e } := by simp [raiseError, h]

/-- Raising an error with ERR = 1 keeps the first error. -/
theorem raiseError_of_err {e : ErrCode} {s : State} (h : s.err = true) : raiseError e s = s := by
  simp [raiseError, h]

/-- The guard before any SEEDLD. -/
theorem inTrial_unseeded {f : State → State} {s : State} (h : s.seeded = false) :
    inTrial f s = raiseError .notSeeded s := by simp [inTrial, h]

/-- The guard after the trial is closed. -/
theorem inTrial_done {f : State → State} {s : State} (h : s.seeded = true) (hd : s.done = true) :
    inTrial f s = raiseError .trialClosed s := by simp [inTrial, h, hd]

/-- The guard in an open trial. -/
theorem inTrial_open {f : State → State} {s : State} (h : s.seeded = true) (hd : s.done = false) :
    inTrial f s = f s := by simp [inTrial, h, hd]

/-- Everything the guard can do. -/
theorem inTrial_cases (f : State → State) (s : State) :
    (s.seeded = false ∧ inTrial f s = raiseError .notSeeded s) ∨
    (s.seeded = true ∧ s.done = true ∧ inTrial f s = raiseError .trialClosed s) ∨
    (s.seeded = true ∧ s.done = false ∧ inTrial f s = f s) := by
  rcases hs : s.seeded with _ | _
  · exact .inl ⟨rfl, inTrial_unseeded hs⟩
  · rcases hd : s.done with _ | _
    · exact .inr (.inr ⟨rfl, rfl, inTrial_open hs hd⟩)
    · exact .inr (.inl ⟨rfl, rfl, inTrial_done hs hd⟩)

/-! ### The byte steps -/

/-- An even index draws. -/
theorem stepKey_even {s : State} (h : phase s = false) : stepKey s = xorDraw s := by simp [stepKey, h]

/-- An odd index draws nothing. -/
theorem stepKey_odd {s : State} (h : phase s = true) : stepKey s = s := by simp [stepKey, h]

/-- The key byte of an even index is the low byte of the draw. -/
theorem keyByte_even {s : State} (h : phase s = false) : keyByte s = lowByte (drawOutput s) := by simp [keyByte, h]

/-- The key byte of an odd index is the low byte of RLAST. -/
theorem keyByte_odd {s : State} (h : phase s = true) : keyByte s = lowByte s.rlast := by simp [keyByte, h]

/-- The state in which a byte step accumulates depends on the byte commands' shared registers alone. -/
theorem stepKey_seed (s : State) : (stepKey s).seed = if phase s then s.seed else (gen (currentMethod s) s.seed).1 := by
  unfold stepKey; split <;> rfl

theorem stepKey_rlast (s : State) : (stepKey s).rlast = if phase s then s.rlast else drawOutput s := by
  unfold stepKey; split <;> rfl

/-- DBYTE's byte undoes EBYTE's, in states with the same key. -/
theorem decryptByte_encryptByte (b : Byte) (s : State) : decryptByte (encryptByte b s) s = b := by
  unfold decryptByte encryptByte
  split
  · exact BitVec.add_sub_cancel b _
  · simp

/-- EBYTE's byte undoes DBYTE's, in states with the same key. -/
theorem encryptByte_decryptByte (b : Byte) (s : State) : encryptByte (decryptByte b s) s = b := by
  unfold decryptByte encryptByte
  split
  · exact BitVec.sub_add_cancel b _
  · simp

/-- Taking the low byte of a widened byte gives the byte back. -/
@[simp] theorem lowByte_zext32 (b : Byte) : lowByte (zext32 b) = b := by
  apply BitVec.eq_of_getLsbD_eq; intro i hi; simp [lowByte, zext32, hi]; omega

/-! ### Operands -/

/-- M names a method exactly when it is at most 4. -/
theorem methodIndex_of_le {m : BitVec 3} {k : Fin 5} (h : m.toNat = k.val) : methodIndex m = some k := by
  have hk := k.isLt
  unfold methodIndex
  rw [dif_pos (by omega)]
  exact congrArg some (Fin.ext h)

/-- M of 5, 6 or 7 names none. -/
theorem methodIndex_of_ge {m : BitVec 3} (h : 5 ≤ m.toNat) : methodIndex m = none := by
  unfold methodIndex; rw [dif_neg (by omega)]

/-- Everything the method index can be. -/
theorem methodIndex_cases (m : BitVec 3) :
    (5 ≤ m.toNat ∧ methodIndex m = none) ∨ ∃ k : Fin 5, m.toNat = k.val ∧ methodIndex m = some k := by
  by_cases h : m.toNat < 5
  · exact .inr ⟨⟨m.toNat, h⟩, rfl, methodIndex_of_le (k := ⟨m.toNat, h⟩) rfl⟩
  · exact .inl ⟨by omega, methodIndex_of_ge (by omega)⟩

/-- Halves of a packed word. -/
@[simp] theorem highHalf_packHalves (a b : Half) : highHalf (packHalves a b) = a := by
  apply BitVec.eq_of_getLsbD_eq; intro i hi
  simp only [highHalf, packHalves, BitVec.getLsbD_extractLsb', BitVec.getLsbD_append]
  simp [hi]

@[simp] theorem lowHalf_packHalves (a b : Half) : lowHalf (packHalves a b) = b := by
  apply BitVec.eq_of_getLsbD_eq; intro i hi
  simp only [lowHalf, packHalves, BitVec.getLsbD_extractLsb', BitVec.getLsbD_append]
  simp [hi]

end Sys2Proof.Machine
end

