-- ==== Sys2Proof/Laws/PerInstr.lean ====
section
/-! SUPPORT. The family OpcodeField: what every instruction's word0 says of its own row of the opcode map (30 R98, R99). -/

namespace Sys2Proof.Laws.OpcodeField

/-- The instruction's word0 selects the row of its own operation (30 R98), and asks for a word1 exactly when the
instruction has one (30 R99). -/
def Statement (i : Instr) : Prop :=
  selectsRow i.opcode (encodeWord0 i) = true ∧ isTwoWord (encodeWord0 i) = (encodeWord1 i).isSome

theorem nop : Statement .nop := by unfold Statement; decide

theorem srst : Statement .srst := by unfold Statement; decide

theorem seedld (m : BitVec 3) (raw : Word) : Statement (.seedld m raw) := by
  change selectsRow .seedld (0x20000000#32 ||| m.setWidth 32) = true ∧ isTwoWord (0x20000000#32 ||| m.setWidth 32) = true
  clear raw
  revert m
  decide

theorem nextDraw : Statement .nextDraw := by unfold Statement; decide

theorem dbyte (b : Byte) : Statement (.dbyte b) := by unfold Statement; revert b; decide

theorem ebyte (b : Byte) : Statement (.ebyte b) := by unfold Statement; revert b; decide

theorem check (a b : Half) : Statement (.check a b) := by
  change selectsRow .check 0x60000000#32 = true ∧ isTwoWord 0x60000000#32 = true
  decide

theorem sealTrial : Statement .sealTrial := by unfold Statement; decide

theorem wctl (e : BitVec 2) : Statement (.wctl e) := by unfold Statement; revert e; decide

end Sys2Proof.Laws.OpcodeField
end

