-- ==== Sys2Proof/Laws/Step.lean ====
section
/-! SUPPORT. What a command and a step can do, said once. -/

namespace Sys2Proof.Machine

/-! ### Commands -/

/-- The state a command leaves: what `exec` answers, without the wrapper of the outcome. -/
def execState (i : Instr) (s : State) : State :=
  match i with
  | .nop => s
  | .srst => resetBlock s
  | .seedld m raw =>
    match methodIndex m with
    | none => raiseError .badMethod s
    | some k => openTrial k raw s
  | .nextDraw => inTrial nextEffect s
  | .dbyte b => inTrial (dbyteEffect b) s
  | .ebyte b => inTrial (ebyteEffect b) s
  | .check a b => inTrial (checkEffect a b) s
  | .sealTrial => inTrial sealEffect s
  | .wctl e => { s with ctrl := e }

/-- Each command answers the state of `execState`. -/
theorem exec_eq (i : Instr) (s : State) : exec i s = .next (execState i s) := by
  cases i with
  | seedld m raw =>
    simp only [exec, execSeedld, execState]
    rcases methodIndex m <;> rfl
  | _ => rfl

/-- A next state of a command is the one `execState` gives. -/
theorem exec_next_iff {i : Instr} {s t : State} : exec i s = .next t ↔ t = execState i s := by
  rw [exec_eq]
  exact ⟨fun h => by cases h; rfl, fun h => by rw [h]⟩

/-- What every command but SRST leaves alone, whatever it does, and what it does to the port's own state. -/
theorem execState_port (i : Instr) (s : State) :
    (execState i s).input = s.input ∧ (execState i s).table = s.table ∧
    (s.pend = false → (execState i s).pend = false) := by
  cases i with
  | seedld m raw =>
    simp only [execState]
    rcases methodIndex m <;> simp
  | nop => exact ⟨rfl, rfl, id⟩
  | srst => exact ⟨rfl, rfl, fun _ => rfl⟩
  | wctl e => exact ⟨rfl, rfl, id⟩
  | nextDraw =>
    simp only [execState]
    rcases inTrial_cases nextEffect s with ⟨_, h⟩ | ⟨_, _, h⟩ | ⟨_, _, h⟩ <;> simp [h]
  | dbyte b =>
    simp only [execState]
    rcases inTrial_cases (dbyteEffect b) s with ⟨_, h⟩ | ⟨_, _, h⟩ | ⟨_, _, h⟩ <;> simp [h, dbyteEffect]
  | ebyte b =>
    simp only [execState]
    rcases inTrial_cases (ebyteEffect b) s with ⟨_, h⟩ | ⟨_, _, h⟩ | ⟨_, _, h⟩ <;> simp [h, ebyteEffect]
  | check a b =>
    simp only [execState]
    rcases inTrial_cases (checkEffect a b) s with ⟨_, h⟩ | ⟨_, _, h⟩ | ⟨_, _, h⟩ <;> simp [h, checkEffect]
  | sealTrial =>
    simp only [execState]
    rcases inTrial_cases sealEffect s with ⟨_, h⟩ | ⟨_, _, h⟩ | ⟨_, _, h⟩ <;> simp [h, sealEffect]

/-! ### Steps -/

/-- A step with nothing presented. -/
theorem step_idle {s : State} (h : s.input = []) : step s = .next s := by
  simp [step, serviceInput, h]

/-- A step that takes rst. -/
theorem step_rst {s : State} {rest : List PortEvent} (h : s.input = .rst :: rest) :
    step s = .next (resetBlock { s with input := rest }) := by
  simp [step, serviceInput, h, acceptEvent]

/-- A step that takes a word. -/
theorem step_word {s : State} {w : Word} {rest : List PortEvent} (h : s.input = .word w :: rest) :
    step s = acceptWord w { s with input := rest } := by
  simp [step, serviceInput, h, acceptEvent]

/-- The SRST word decodes to SRST. -/
theorem decode_srstWord : decodeCommand srstWord 0#32 = .ok .srst := by decide

/-- The SRST word is one word long. -/
theorem isTwoWord_srstWord : isTwoWord srstWord = false := by decide

/-- Everything one step can do: wait, take rst, run a decoded instruction, raise the error of a malformed command, latch a
word0, or discard a word. -/
theorem step_cases {s t : State} (h : step s = .next t) :
    (s.input = [] ∧ executes s = none ∧ t = s) ∨
    (∃ rest, s.input = .rst :: rest ∧ executes s = none ∧ t = resetBlock { s with input := rest }) ∨
    (∃ i w rest, s.input = .word w :: rest ∧ executes s = some i ∧ (s.err = true → i = .srst) ∧
      t = execState i { s with input := rest, pend := if s.err then s.pend else false }) ∨
    (∃ e w rest, s.input = .word w :: rest ∧ executes s = none ∧ s.err = false ∧
      t = raiseError (encodingErrCode e) { s with input := rest, pend := false }) ∨
    (∃ w rest, s.input = .word w :: rest ∧ executes s = none ∧ s.err = false ∧ s.pend = false ∧ isTwoWord w = true ∧
      t = { s with w0 := w, pend := true, input := rest }) ∨
    (∃ w rest, s.input = .word w :: rest ∧ executes s = none ∧ s.err = true ∧ w ≠ srstWord ∧
      t = { s with input := rest }) := by
  rcases hin : s.input with _ | ⟨e, rest⟩
  · rw [step_idle hin] at h
    exact .inl ⟨rfl, by simp [executes, hin], by cases h; rfl⟩
  rcases e with w | _
  · rw [step_word hin] at h
    rcases herr : s.err with _ | _
    · rcases hp : s.pend with _ | _
      · rcases h2 : isTwoWord w with _ | _
        · rcases hd : decodeCommand w 0#32 with e | i
          · simp [acceptWord, herr, hp, h2, executeCommand, hd] at h
            exact .inr (.inr (.inr (.inl ⟨e, w, rest, rfl, by simp [executes, hin, herr, hp, h2, hd, Except.toOption],
              rfl, by rw [← h]⟩)))
          · simp [acceptWord, herr, hp, h2, executeCommand, hd, exec_eq] at h
            exact .inr (.inr (.inl ⟨i, w, rest, rfl, by simp [executes, hin, herr, hp, h2, hd, Except.toOption],
              by simp, by rw [← h]; rfl⟩))
        · simp [acceptWord, herr, hp, h2] at h
          exact .inr (.inr (.inr (.inr (.inl ⟨w, rest, rfl, by simp [executes, hin, herr, hp, h2], rfl, rfl, h2,
            by rw [← h]⟩))))
      · rcases hd : decodeCommand s.w0 w with e | i
        · simp [acceptWord, herr, hp, executeCommand, hd] at h
          exact .inr (.inr (.inr (.inl ⟨e, w, rest, rfl, by simp [executes, hin, herr, hp, hd, Except.toOption],
            rfl, by rw [← h]⟩)))
        · simp [acceptWord, herr, hp, executeCommand, hd, exec_eq] at h
          exact .inr (.inr (.inl ⟨i, w, rest, rfl, by simp [executes, hin, herr, hp, hd, Except.toOption],
            by simp, by rw [← h]; rfl⟩))
    · by_cases hw : w = srstWord
      · simp [acceptWord, herr, hw, exec_eq] at h
        exact .inr (.inr (.inl ⟨.srst, w, rest, rfl, by simp [executes, hin, herr, hw], fun _ => rfl,
          by rw [← h]; simp⟩))
      · simp [acceptWord, herr, hw] at h
        exact .inr (.inr (.inr (.inr (.inr ⟨w, rest, rfl, by simp [executes, hin, herr, hw], rfl, hw, by rw [← h]⟩))))
  · rw [step_rst hin] at h
    exact .inr (.inl ⟨rest, rfl, by simp [executes, hin], by cases h; rfl⟩)

end Sys2Proof.Machine
end

