-- ==== Sys2Proof/Tests/Slice0.lean ====
section
/-! SUPPORT. Tests with the numbers of spec 95 (whose method table is test-only, 95 section 1), of 30 R108 and of the encoding
patterns of 30 R91, and one witness theorem for every obligation that has hypotheses. -/

namespace Sys2Proof.Tests

open Sys2Proof Sys2Proof.Machine

/-- TEST_TABLE (95 section 1). -/
def testTable : MethodTable :=
  #v[⟨0x00000000#32, 0x0000#16, 0x0000#16⟩, ⟨0xFFFFFFFF#32, 0xFFFF#16, 0xFFFF#16⟩, ⟨0x12345678#32, 0x1111#16, 0x2222#16⟩,
    ⟨0xA5A5A5A5#32, 0x8000#16, 0x7FFF#16⟩, ⟨0x0F0F0F0F#32, 0x1357#16, 0x2468#16⟩]

/-- The block after reset, with the test table. -/
def boot : State := { State.reset with table := testTable }

/-- The block right after `seedld 2, 0`. -/
def trial : State :=
  { boot with seed := 0x12345678#32, result := 0x12345678#32, method := 2, seeded := true }

/-- The block after one byte of that trial: the next byte takes the odd step. -/
def oddTrial (cka ckb : Half) : State :=
  { trial with seed := 0x9D025789#32, rlast := 0x57899D02#32, idx := 1#32, cka := cka, ckb := ckb }

/-- The block after an empty trial is closed by CHECK 0, 0. -/
def closed : State := { trial with seed := 0x9D025789#32, result := 0x9D0262FE#32, done := true }

/-- The block in the error state. -/
def failed : State := { boot with err := true, errcode := .illegalOpcode }

/-- `s` with these words on the command port. -/
def fed (s : State) (ws : List Word) : State := { s with input := ws.map .word }

/-- `s` with word0 already latched. -/
def latched (s : State) (word0 : Word) : State := { s with pend := true, w0 := word0 }

/-- One value of the next state, if there is one. -/
def look {α : Type} (o : Host.Outcome State Fault Refusal) (f : State → α) : Option α :=
  match o with
  | .next s => some (f s)
  | .fault _ => none
  | .refused _ => none

/-- STATUS, SEED, RLAST, CKSUM, IDX and RESULT through the read port, in the order of the tables of spec 95. -/
def reads (s : State) : List Word :=
  [readPort 0#3 s, readPort 2#3 s, readPort 3#3 s, readPort 4#3 s, readPort 5#3 s, readPort 6#3 s]

/-! ### Encoding -/

/-- Generator family: SEEDLD is 0010, 25 zeros, the 3 bits of M; RAW is word1 (30 R94). -/
theorem test_decode_seedld :
    decodeTableWord 64 (0x12345678 * 2 ^ 32 + 0b00100000000000000000000000000011) = some (.seedld 3#3 0x12345678#32) := by
  decide

/-- Generator family: NEXT is 0011 and 28 zeros (30 R92). -/
theorem test_decode_next : decodeTableWord 32 0b00110000000000000000000000000000 = some .nextDraw := by decide

/-- Payload family: DBYTE is 0100, 20 zeros, the 8 bits of the byte (30 R93). -/
theorem test_decode_dbyte : decodeTableWord 32 0b01000000000000000000000010100101 = some (.dbyte 0xA5#8) := by decide

/-- Payload family: EBYTE is 0101, 20 zeros, the 8 bits of the byte (30 R93). -/
theorem test_decode_ebyte : decodeTableWord 32 0b01010000000000000000000000000001 = some (.ebyte 0x01#8) := by decide

/-- Closing family: CHECK is 0110 and 28 zeros, then A in bits 31:16 and B in bits 15:0 of word1 (30 R95). -/
theorem test_decode_check :
    decodeTableWord 64 (0x1234ABCD * 2 ^ 32 + 0b01100000000000000000000000000000) =
      some (.check 0x1234#16 0xABCD#16) := by decide

/-- Closing family: SEAL is 0111 and 28 zeros. -/
theorem test_decode_seal : decodeTableWord 32 0b01110000000000000000000000000000 = some .sealTrial := by decide

/-- Control family: NOP is 32 zeros, SRST is 0001 and 28 zeros, WCTL is 1000, 26 zeros, the 2 bits of E (30 R96). -/
theorem test_decode_control :
    decodeTableWord 32 0b00000000000000000000000000000000 = some .nop ∧
    decodeTableWord 32 0b00010000000000000000000000000000 = some .srst ∧
    decodeTableWord 32 0b10000000000000000000000000000010 = some (.wctl 2#2) := by decide

/-- The table gives a two-word row its first word alone: word1 is then zero. -/
theorem test_decode_row_of_first_word : decodeTableWord 32 0x20000002 = some (.seedld 2#3 0#32) := by decide

/-- V-ER1 to V-ER6 (95 section 3.9): what each malformed command is refused for. -/
theorem test_decode_refusals :
    [decodeCommand 0x90000000#32 0#32, decodeCommand 0xFFFFFFFF#32 0#32, decodeCommand 0x00000001#32 0#32,
      decodeCommand 0x80000004#32 0#32, decodeCommand 0x40000100#32 0#32, decodeCommand 0x20000102#32 5#32].map
        (fun r => match r with | .ok _ => none | .error e => some e) =
      [some .illegalOpcode, some .illegalOpcode, some .reservedBits, some .reservedBits, some .reservedBits,
        some .reservedBits] := by decide

/-- A two-word command without its word1 is incomplete. -/
theorem test_decode_incomplete : decode [0x60000000#32] = .error .incomplete := rfl

/-- No word0 selects two rows: any two rows differ in a bit that both masks keep. -/
theorem test_rows_disjoint :
    ([Opcode.nop, .srst, .seedld, .nextDraw, .dbyte, .ebyte, .check, .sealTrial, .wctl].map opcodeRow).Pairwise
      (fun r q => (r.matchBits ^^^ q.matchBits) &&& r.mask &&& q.mask ≠ 0#32) := by decide

/-- The check `opcodeDefined` refuses OP 0x9. -/
theorem test_ill_formed_opcode :
    (⟨0x90000000#32, none⟩ : Command).opcodeDefined = false ∧ (⟨0x90000000#32, none⟩ : Command).wellFormed = false := by
  decide

/-- The check `reservedClear` refuses bit 8 of a DBYTE, and bit 3 of a SEEDLD. -/
theorem test_ill_formed_reserved :
    (⟨0x40000100#32, none⟩ : Command).reservedClear = false ∧ (⟨0x40000100#32, none⟩ : Command).wellFormed = false ∧
    (⟨0x20000008#32, some 0#32⟩ : Command).reservedClear = false := by decide

/-- The check `lengthRight` refuses a SEEDLD without word1 and a NOP with one. -/
theorem test_ill_formed_length :
    (⟨0x20000003#32, none⟩ : Command).lengthRight = false ∧ (⟨0x20000003#32, none⟩ : Command).wellFormed = false ∧
    (⟨0x00000000#32, some 0#32⟩ : Command).lengthRight = false ∧
    (⟨0x00000000#32, some 0#32⟩ : Command).wellFormed = false := by decide

/-! ### The generator (95 sections 3.1 and 3.2) -/

/-- The three traced rows of 95 section 3.2. -/
theorem test_gen_traces :
    gen (testTable.get 2) 0xDEADBEEF#32 = (0x5C4EAE01#32, 0xAE015C4E#32) ∧
    gen (testTable.get 0) 0x80800000#32 = (0x80830001#32, 0x00018083#32) ∧
    gen (testTable.get 3) 0x12345678#32 = (0xFADFC678#32, 0xC678FADF#32) := by decide

/-- Rows of 95 section 3.1 under methods 1, 3 and 4: both carries, all adds wrapping. -/
theorem test_gen_table :
    gen (testTable.get 1) 0xFFFFFFFF#32 = (0xFFFFFDFF#32, 0xFDFFFFFF#32) ∧
    gen (testTable.get 1) 0x00800000#32 = (0x00800000#32, 0x00000080#32) ∧
    gen (testTable.get 3) 0x7FFFFFFF#32 = (0xFFFD7E00#32, 0x7E00FFFD#32) ∧
    gen (testTable.get 4) 0xDEADBEEF#32 = (0x5E94B047#32, 0xB0475E94#32) := by decide

/-! ### One command (95 sections 3.4 to 3.8) -/

/-- SEEDLD, table of 95 section 3.4, method 3; METHOD is in STATUS. -/
theorem test_seedld :
    look (exec (.seedld 3#3 0xCAFEF00D#32) boot) reads =
      some [0x00000301#32, 0x6F5B55A8#32, 0#32, 0#32, 0#32, 0x6F5B55A8#32] := by decide

/-- V-ER8: SEEDLD with M = 7. -/
theorem test_seedld_bad_method :
    look (exec (.seedld 7#3 1#32) boot) reads = some [0x00000038#32, 0#32, 0#32, 0#32, 0#32, 0#32] := by decide

/-- V-NX1. -/
theorem test_next :
    look (exec .nextDraw trial) reads = some [0x00000201#32, 0x9D025789#32, 0#32, 0#32, 0#32, 0x57899D02#32] := by decide

/-- V-ER9: NEXT before any SEEDLD. -/
theorem test_next_not_seeded : look (exec .nextDraw boot) (readPort 0#3) = some 0x00000048#32 := by decide

/-- V-DB3: DBYTE at an even index. -/
theorem test_dbyte_even :
    look (exec (.dbyte 0xA5#8) trial) reads =
      some [0x00001201#32, 0x9D025789#32, 0x57899D02#32, 0x00A700A7#32, 1#32, 0x000000A7#32] := by decide

/-- V-DB2: DBYTE at an odd index, where 0x00 - 0x02 wraps. -/
theorem test_dbyte_odd :
    look (exec (.dbyte 0x00#8) (oddTrial 0x0002#16 0x0002#16)) reads =
      some [0x00000201#32, 0x9D025789#32, 0x57899D02#32, 0x0100011E#32, 2#32, 0x000000FE#32] := by decide

/-- P1, word 3: EBYTE at an even index accumulates its input, not its output. -/
theorem test_ebyte_even :
    look (exec (.ebyte 0xA5#8) trial) reads =
      some [0x00001201#32, 0x9D025789#32, 0x57899D02#32, 0x00A500A5#32, 1#32, 0x000000A7#32] := by decide

/-- V-EB1: EBYTE at an odd index, where 0xFF + 0x02 wraps. -/
theorem test_ebyte_odd :
    look (exec (.ebyte 0xFF#8) (oddTrial 0x00FF#16 0x00FF#16)) reads =
      some [0x00000201#32, 0x9D025789#32, 0x57899D02#32, 0x01FE10EF#32, 2#32, 0x00000001#32] := by decide

/-- V-CK1 to V-CK6b and V-CKA1, V-CKA2: the checksum updates on their own. -/
theorem test_checksum_updates :
    [(0x0000, 0x00), (0x0001, 0x00), (0xF000, 0x00), (0x1234, 0x00), (0xFFFF, 0x01), (0xABCD, 0xFF), (0x8000, 0x80)].map
        (fun p => (accumulate (BitVec.ofNat 8 p.2) { trial with ckb := BitVec.ofNat 16 p.1 }).ckb) =
      [0x0000#16, 0x0010#16, 0x000F#16, 0x2341#16, 0x0000#16, 0xBDD9#16, 0x0088#16] ∧
    (accumulate 0x01#8 { trial with cka := 0xFFFF#16 }).cka = 0#16 ∧
    (accumulate 0x80#8 { trial with cka := 0xFF80#16 }).cka = 0#16 := by decide

/-- V-CH1 and V-CH2: no match, and the match of the sealed trailer. -/
theorem test_check :
    look (exec (.check 0x0000#16 0x0000#16) trial) reads =
      some [0x00000203#32, 0x9D025789#32, 0#32, 0#32, 0#32, 0x9D0262FE#32] ∧
    look (exec (.check 0x9D02#16 0x9D02#16) trial) reads =
      some [0x00000207#32, 0x9D025789#32, 0#32, 0#32, 0#32, 0#32] := by decide

/-- V-CH3 and V-CH4: one bit of either half flipped gives no match. -/
theorem test_check_halves :
    look (exec (.check 0x9D02#16 0x9D03#16) trial) (fun s => (readPort 0#3 s, s.result)) =
      some (0x00000203#32, 0x00000001#32) ∧
    look (exec (.check 0x9D03#16 0x9D02#16) trial) (fun s => (readPort 0#3 s, s.result)) =
      some (0x00000203#32, 0x00010000#32) := by decide

/-- V-SE1. -/
theorem test_seal :
    look (exec .sealTrial trial) reads = some [0x00000203#32, 0x9D025789#32, 0#32, 0#32, 0#32, 0x9D029D02#32] := by decide

/-- V-ER13: SEAL after CHECK. -/
theorem test_seal_closed :
    look (exec .sealTrial closed) (fun s => (readPort 0#3 s, s.result)) = some (0x0000025B#32, 0x9D0262FE#32) := by decide

/-- V-NP1. -/
theorem test_nop :
    look (exec .nop trial) reads = some [0x00000201#32, 0x12345678#32, 0#32, 0#32, 0#32, 0x12345678#32] := by decide

/-- V-WC1. -/
theorem test_wctl :
    look (exec (.wctl 3#2) boot) (fun s => (readPort 1#3 s, readPort 0#3 s, irq s)) = some (3#32, 0#32, false) := by decide

/-- V-SR1: SRST leaves the error state and clears every register. -/
theorem test_srst :
    look (exec .srst { failed with ctrl := 3#2, seed := 5#32 }) (fun s => (readPort 1#3 s, reads s)) =
      some (0#32, [0#32, 0#32, 0#32, 0#32, 0#32, 0#32]) := by decide

/-! ### One step of the port (95 sections 3.4, 3.9 and 3.10, program P4) -/

/-- V-SL2: only word0 of a SEEDLD has arrived. -/
theorem test_step_latches :
    look (step (fed boot [0x20000002#32])) (fun s => (reads s, s.w0)) =
      some ([0x00000800#32, 0#32, 0#32, 0#32, 0#32, 0#32], 0x20000002#32) := by decide

/-- V-ER17: with PEND = 1 the SRST pattern is word1. -/
theorem test_step_srst_as_word1 :
    look (step (fed (latched boot 0x20000002#32) [0x10000000#32])) reads =
      some [0x00000201#32, 0x02345678#32, 0#32, 0#32, 0#32, 0x02345678#32] := by decide

/-- V-ER6: the reserved bits of a two-word command are checked after word1 has arrived. -/
theorem test_step_reserved_two_words :
    look (step (fed (latched boot 0x20000102#32) [5#32])) (readPort 0#3) = some 0x00000028#32 := by decide

/-- V-ER14 to V-ER16: what the error state executes. -/
theorem test_step_in_error_state :
    look (step (fed failed [0x20000002#32])) (readPort 0#3) = some 0x00000018#32 ∧
    look (step (fed failed [0x10000000#32])) (readPort 0#3) = some 0#32 ∧
    look (step (fed failed [0x10000001#32])) (readPort 0#3) = some 0x00000018#32 := by decide

/-- V-IQ1, V-IQ3 and V-IQ4: the level of irq. -/
theorem test_irq :
    look (exec (.wctl 1#2) closed) (fun s => (readPort 0#3 s, irq s)) = some (0x00002203#32, true) ∧
    look (step (fed { boot with ctrl := 2#2 } [0x90000000#32])) (fun s => (readPort 0#3 s, irq s)) =
      some (0x00002018#32, true) ∧
    look (step (fed { boot with ctrl := 1#2 } [0x90000000#32])) (fun s => (readPort 0#3 s, irq s)) =
      some (0x00000018#32, false) := by decide

/-- The placed instruction runs in the very next step: one word, and two words (95 section 3.4, method 4). -/
theorem test_placed_word_runs :
    look (step (boot.withFetchWord 32 0x40000012)) (readPort 0#3) = some 0x00000048#32 ∧
    look (step (boot.withFetchWord 64 (0xCAFEF00D * 2 ^ 32 + 0x20000004))) (fun s => (readPort 0#3 s, s.seed)) =
      some (0x00000401#32, 0xC5F1FF02#32) := by decide

/-! ### The host's side (95 section 3.11, programs P1 and P3; 30 sections 4 and 5) -/

/-- V-PW. -/
theorem test_password :
    resolvePassword (.replicate 8 0#8) = #v[0xF5#8, 0xEA#8, 0xDF#8, 0xD4#8, 0xC9#8, 0xBE#8, 0xB3#8, 0xA8#8] ∧
    resolvePassword #v[0x0B#8, 0x16#8, 0x21#8, 0x2C#8, 0x37#8, 0x42#8, 0x4D#8, 0x58#8] = .replicate 8 0#8 := by decide

/-- A stand-in for PREAMBLE, which the spec leaves OPEN. -/
def testPreamble : Preamble := .replicate 25 0x51#8

/-- The frame of P1: filesize 35, N = 2. -/
theorem test_frame :
    (frameFile testPreamble 0#32 [0xA7#8, 0x12#8] 0xC361CE34#32).drop 25 =
      [0x00#8, 0x00#8, 0x00#8, 0x00#8, 0xA7#8, 0x12#8, 0xC3#8, 0x61#8, 0xCE#8, 0x34#8] ∧
    (parseFrame testPreamble (frameFile testPreamble 0#32 [0xA7#8, 0x12#8] 0xC361CE34#32)).toOption =
      some ⟨0#32, [0xA7#8, 0x12#8], 0xC361#16, 0xCE34#16⟩ := by decide

/-- The listing of `seedld 3, 0x12345678` (30 R108). -/
theorem test_listing :
    listing (.seedld 3#3 0x12345678#32) =
      [['0', 'x', '2', '0', '0', '0', '0', '0', '0', '3'], ['0', 'x', '1', '2', '3', '4', '5', '6', '7', '8']] := by decide

/-- Assembling lines: a hexadecimal and a decimal operand, a comment, capitals, and an operand that does not fit. -/
theorem test_assemble :
    (assembleLine "seedld 3, 0x12345678 ; a trial".toList).toOption = some [.seedld 3#3 0x12345678#32] ∧
    (assembleLine "  DBYTE 165".toList).toOption = some [.dbyte 0xA5#8] ∧
    (assembleLine "wctl 4".toList).toOption = none := by decide

/-! ### Witnesses: a concrete state and operands that meet the hypotheses of each obligation together -/

/-- The frame of P3: RAW 0x0BADF00D, no payload, trailer 0x98719871. -/
def emptyFrame : List Byte := frameFile testPreamble 0x0BADF00D#32 [] 0x98719871#32

/-- Encoding: words that decode; a word whose OP selects a row but whose reserved bits are set. -/
theorem witness_DecodedWordsAreTheInstructionsEncoding :
    decode [0x20000003#32, 5#32, 7#32] = .ok (.seedld 3#3 5#32, [7#32]) := rfl

theorem witness_OpcodeMapRowsSelectTheirCommands :
    (opcodeOf (opField 0x40000100#32) = some .dbyte ∧ selectsRow .dbyte 0x40000100#32 = false) ∧
    (Instr.dbyte 0xFF#8).opcode = .dbyte := by decide

/-- OP 0x2, OP 0x6 and, for the one-word clause, the reserved OP 0xF. -/
theorem witness_CommandLengthDependsOnOpcodeAlone :
    ∀ word0 ∈ [0x20000002#32, 0x6FFFFFFF#32, 0xF0000000#32],
      (fed trial [word0, 9#32]).err = false ∧ (fed trial [word0, 9#32]).pend = false ∧
      (fed trial [word0, 9#32]).input = .word word0 :: .word 9#32 :: [] ∧
      ((word0.extractLsb' 28 4 = 2#4 ∨ word0.extractLsb' 28 4 = 6#4) ↔ word0 ≠ 0xF0000000#32) := by
  simp only [List.forall_mem_cons, List.not_mem_nil, false_implies, implies_true, and_true]; decide

theorem witness_StepRunsTheDecodedInstruction :
    ((fed trial [0x400000FF#32]).err = false ∧ (fed trial [0x400000FF#32]).input = [.word 0x400000FF#32] ∧
      (fed trial [0x400000FF#32]).pend = false ∧ isTwoWord 0x400000FF#32 = false) ∧
    decodeCommand 0x400000FF#32 0#32 = .ok (.dbyte 0xFF#8) ∧
    ((latched (fed trial [5#32]) 0x60000000#32).err = false ∧ (latched (fed trial [5#32]) 0x60000000#32).pend = true) ∧
    decodeCommand 0x60000000#32 5#32 = .ok (.check 0#16 5#16) := ⟨by decide, rfl, by decide, rfl⟩

theorem witness_PresentedInstructionRunsInItsWordCount :
    ∀ i ∈ [Instr.check 1#16 2#16, .ebyte 0xFF#8],
      (fed trial (encode i)).err = false ∧ (fed trial (encode i)).pend = false ∧
      (fed trial (encode i)).input = (encode i).map .word ++ [] := by decide

theorem witness_PlacedTableWordRunsNext :
    trial.err = false ∧ decodeTableWord 32 0x80000003 = some (.wctl 3#2) ∧
    decodeTableWord 64 (7 * 2 ^ 32 + 0x20000007) = some (.seedld 7#3 7#32) := by decide

/-- A latched word0 of either OP with the SRST pattern as word1, a word0 to latch, and a one-word command. -/
theorem witness_PortTakesWordsWhileNoError :
    (∀ word0 ∈ [0x20000002#32, 0x60000000#32],
      (latched (fed trial [0x10000000#32]) word0).err = false ∧ (latched (fed trial [0x10000000#32]) word0).pend = true ∧
      ((latched (fed trial [0x10000000#32]) word0).w0.extractLsb' 28 4 = 2#4 ∨
        (latched (fed trial [0x10000000#32]) word0).w0.extractLsb' 28 4 = 6#4)) ∧
    (∀ w ∈ [0x20000000#32, 0x70000000#32], (fed trial [w]).err = false ∧ (fed trial [w]).pend = false ∧
      (fed trial [w]).input = [.word w]) := by
  simp only [List.forall_mem_cons, List.not_mem_nil, false_implies, implies_true, and_true]; decide

/-- OP 0x9 and 0xF; each mask of 30 R103 met and missed by its lowest reserved bit. -/
theorem witness_ExecuteChecksOpcodeThenReservedBits :
    trial.err = false ∧
    (∀ w ∈ [0x90000000#32, 0xF0000000#32], 9 ≤ (w.extractLsb' 28 4).toNat) ∧
    (∀ p ∈ [(0x00000000#32, 0x00000001#32, 0x0FFFFFFF#32), (0x20000007#32, 0x20000008#32, 0x0FFFFFF8#32),
        (0x500000FF#32, 0x50000100#32, 0x0FFFFF00#32), (0x80000003#32, 0x80000004#32, 0x0FFFFFFC#32)],
      p.1 &&& p.2.2 = 0#32 ∧ p.2.1 &&& p.2.2 ≠ 0#32 ∧
      (opcodeOf (opField p.1)).map reservedMask = some p.2.2 ∧ opField p.1 = opField p.2.1) := by
  simp only [List.forall_mem_cons, List.not_mem_nil, false_implies, implies_true, and_true]; decide

theorem witness_ErrorStateExecutesOnlySoftReset :
    (∀ w ∈ [0x10000000#32, 0x10000001#32], (fed failed [w]).err = true ∧ (fed failed [w]).input = [.word w]) ∧
    (fed failed [0x10000000#32]).Inv :=
  ⟨by simp only [List.forall_mem_cons, List.not_mem_nil, false_implies, implies_true, and_true]; decide,
    ⟨by decide, by decide, by decide, by decide, by decide, by decide⟩⟩

theorem witness_BlockWaitsWithNothingPresented : trial.input = [] := rfl

/-- The test block right after reset has the reset values. -/
theorem boot_reset_values : boot.ResetValues :=
  ⟨rfl, rfl, rfl, rfl, rfl, rfl, rfl, by decide, by decide, rfl, rfl⟩

theorem witness_BothResetsLeaveTheResetValues :
    { trial with input := [.rst] }.input = [.rst] ∧
    ((fed failed [0x10000000#32]).err = true ∧ (fed trial [0x10000000#32]).pend = false ∧
      (latched (fed trial [0x10000000#32]) 0x60000000#32).pend = true ∧
      (latched (fed trial [0x10000000#32]) 0x60000000#32).err = false) ∧
    boot.ResetValues ∧ boot.input = [] := ⟨rfl, by decide, boot_reset_values, rfl⟩

theorem witness_AfterResetOnlyUnseededCommandsAreLegal :
    boot.ResetValues ∧ NeedsTrial .sealTrial ∧ ¬NeedsTrial (.seedld 4#3 0#32) ∧ (4#3).toNat ≤ 4 ∧
    (∃ t, exec .nop boot = .next t) ∧ (Instr.nop).opcode ≠ .seedld :=
  ⟨boot_reset_values, by simp [NeedsTrial, Instr.opcode], by simp [NeedsTrial, Instr.opcode], by decide, ⟨_, rfl⟩, by decide⟩

/-- The invariants hold in an open trial, and a step leads on from it. -/
theorem witness_EveryStepKeepsTheInvariants :
    (fed trial [0x60000000#32]).Inv ∧ ∃ t, step (fed trial [0x60000000#32]) = .next t :=
  ⟨⟨by decide, by decide, by decide, by decide, by decide, by decide⟩, ⟨_, rfl⟩⟩

theorem witness_ReachableStatesMeetTheInvariants : Reachable boot := .reset testTable 0#32

/-- One step for each register that a clause names as changed, PEND in both directions, none of them rst. -/
theorem witness_OnlyTheListedCommandsWriteARegister :
    (∃ t, step (fed trial [0x40000001#32]) = .next t ∧ t.seed ≠ trial.seed ∧ t.rlast ≠ trial.rlast ∧ t.cka ≠ trial.cka ∧
      t.result ≠ trial.result) ∧
    (∃ t, step (fed trial [0x80000001#32]) = .next t ∧ t.ctrl ≠ trial.ctrl) ∧
    (∃ t, step (fed trial [0x20000001#32]) = .next t ∧ t.w0 ≠ trial.w0 ∧ trial.pend = false ∧ t.pend = true) ∧
    (∃ t, step (latched (fed trial [0#32]) 0x20000001#32) = .next t ∧ t.method ≠ trial.method ∧
      (latched (fed trial [0#32]) 0x20000001#32).pend = true ∧ t.pend = false) ∧
    (fed trial [0x40000001#32]).input.head? ≠ some .rst := by
  refine ⟨⟨_, rfl, ?_⟩, ⟨_, rfl, ?_⟩, ⟨_, rfl, ?_⟩, ⟨_, rfl, ?_⟩, ?_⟩ <;> decide

/-- SEEDED falls at SRST and rises at SEEDLD of the highest method; an unseeded block meets NEXT. -/
theorem witness_SeededIsSetBySeedldAndClearedByResetAlone :
    (4#3).toNat ≤ 4 ∧
    (∃ t, step (fed trial [0x10000000#32]) = .next t ∧ trial.seeded = true ∧ t.seeded = false) ∧
    (∃ t, step (latched (fed boot [0#32]) 0x20000004#32) = .next t ∧ boot.seeded = false ∧ t.seeded = true) ∧
    StepResets (fed trial [0x10000000#32]) ∧
    (NeedsTrial .nextDraw ∧ boot.err = false ∧ boot.seeded = false) :=
  ⟨by decide, ⟨_, rfl, rfl, rfl⟩, ⟨_, rfl, rfl, rfl⟩, .inr rfl, by simp [NeedsTrial, Instr.opcode], rfl, rfl⟩

/-- DONE rises at SEAL and falls at SEEDLD and rst; a closed trial meets NEXT. -/
theorem witness_DoneClosesTheTrialUntilSeedldOrReset :
    (Instr.sealTrial.opcode ∈ [Opcode.check, .sealTrial] ∧ trial.TrialOpen) ∧
    (∃ t, step (fed trial [0x70000000#32]) = .next t ∧ trial.done = false ∧ t.done = true) ∧
    (∃ t, step (latched (fed closed [0#32]) 0x20000000#32) = .next t ∧ closed.done = true ∧ t.done = false) ∧
    (∃ t, step { closed with input := [.rst] } = .next t ∧ StepResets { closed with input := [.rst] } ∧ t.done = false) ∧
    (NeedsTrial .nextDraw ∧ closed.err = false ∧ closed.seeded = true ∧ closed.done = true) :=
  ⟨by decide, ⟨_, rfl, rfl, rfl⟩, ⟨_, rfl, rfl, rfl⟩, ⟨_, rfl, .inl rfl, rfl⟩, by simp [NeedsTrial, Instr.opcode], rfl, rfl, rfl⟩

theorem witness_FirstErrorIsKeptUntilReset :
    (trial.Inv ∧ trial.err = false) ∧
    (∃ t, step (fed failed [0x40000100#32]) = .next t) ∧ failed.err = true ∧ ¬StepResets (fed failed [0x40000100#32]) ∧
    StepResets (fed failed [0x10000000#32]) :=
  ⟨⟨⟨by decide, by decide, by decide, by decide, by decide, by decide⟩, rfl⟩, ⟨_, rfl⟩, rfl,
    by simp [StepResets, executes, fed, failed, boot, srstWord], .inr rfl⟩

theorem witness_LatchIsNeverReadWithoutPend :
    (fed trial [0x20000001#32]).pend = false ∧ ∃ t, step (fed trial [0x20000001#32]) = .next t ∧ t.pend = true :=
  ⟨rfl, _, rfl, rfl⟩

theorem witness_InterruptIsTheLevelOfItsCauses :
    (∃ t, exec (.wctl 0#2) { closed with ctrl := 3#2 } = .next t) ∧
    ((4#3).toNat ≤ 4 ∧ closed.err = false ∧ ∃ t, exec (.seedld 4#3 0#32) { closed with ctrl := 3#2 } = .next t) ∧
    StepResets (fed failed [0x10000000#32]) ∧
    (failed.err = true ∧ (fed failed [0x80000003#32]).input = [.word (encodeWord0 (.wctl 3#2))]) :=
  ⟨⟨_, rfl⟩, ⟨by decide, rfl, _, rfl⟩, .inr rfl, rfl, by decide⟩

/-- The closed forms' fields at the state of the first trace of 95 section 3.2 (BX1 and CX1 there). -/
theorem witness_GeneratorHasItsClosedForm :
    0x5B7D#16 = (0xDEADBEEF#32).extractLsb' 8 15 ++ (0xDEADBEEF#32).extractLsb' 31 1 ∧
    0xDE01#16 = ((0xDEADBEEF#32).extractLsb' 0 7 ++ 0b00000000#8) ++ (0xDEADBEEF#32).extractLsb' 23 1 ∧
    0xAE01#16 = 0xDE01#16 + (0xDEADBEEF#32).extractLsb' 0 16 + 0x1111#16 ∧
    0x5C4E#16 = 0x5B7D#16 + (0xDEADBEEF#32).extractLsb' 16 16 + ((0xDEADBEEF#32).extractLsb' 31 1).setWidth 16 + 0x2222#16 +
      ((0xDEADBEEF#32).extractLsb' 23 1).setWidth 16 := by decide

/-- The trial of method 0 of the test table with seed 0, and a payload that mixes the two commands. -/
theorem witness_GeneratorCornerCases :
    (∀ b : Byte, (if b = 0#8 then Instr.ebyte b else .dbyte b) = .dbyte b ∨
      (if b = 0#8 then Instr.ebyte b else .dbyte b) = .ebyte b) ∧
    { trial with method := 0, seed := 0#32 }.TrialOpen ∧ { trial with method := 0, seed := 0#32 }.err = false ∧
    { trial with method := 0, seed := 0#32 }.pend = false ∧ { trial with method := 0, seed := 0#32 }.rlast = 0#32 ∧
    (currentMethod { trial with method := 0, seed := 0#32 }).pConst = 0#16 ∧
    (currentMethod { trial with method := 0, seed := 0#32 }).qConst = 0#16 :=
  ⟨fun b => by by_cases h : b = 0#8 <;> simp [h], by decide⟩

theorem witness_SeedldOpensATrial : (4#3).toNat = (4 : Fin 5).val ∧ (0#3).toNat = (0 : Fin 5).val := by decide

theorem witness_SeedldRefusesMethodsFiveToSeven : trial.err = false ∧ 5 ≤ (5#3).toNat ∧ 5 ≤ (7#3).toNat := by decide

/-- Two states of different trials that share what belongs to no trial. -/
theorem witness_NothingOfATrialSurvivesSeedld :
    (4#3).toNat ≤ 4 ∧ closed.ctrl = (oddTrial 1#16 1#16).ctrl ∧ closed.err = (oddTrial 1#16 1#16).err ∧
    closed.errcode = (oddTrial 1#16 1#16).errcode ∧ closed.pend = (oddTrial 1#16 1#16).pend ∧
    closed.w0 = (oddTrial 1#16 1#16).w0 ∧ closed.table = (oddTrial 1#16 1#16).table ∧
    closed.input = (oddTrial 1#16 1#16).input ∧ closed.resets = (oddTrial 1#16 1#16).resets ∧
    closed.done ≠ (oddTrial 1#16 1#16).done := by decide

theorem witness_NextDrawsOnce : trial.err = false ∧ trial.TrialOpen := by decide

theorem witness_GeneratorCommandsFrame :
    (∃ t, exec (.seedld 4#3 7#32) trial = .next t) ∧ (4#3).toNat ≤ 4 ∧ (∃ t, exec .nextDraw trial = .next t) ∧
    trial.TrialOpen ∧ (∃ t, exec .nextDraw closed = .next t) ∧ ¬closed.TrialOpen :=
  ⟨⟨_, rfl⟩, by decide, ⟨_, rfl⟩, by decide, ⟨_, rfl⟩, by decide⟩

/-- At the first index, and with the output of V-DB3. -/
theorem witness_EvenIndexByteIsXoredWithAFreshDraw :
    trial.err = false ∧ trial.TrialOpen ∧ trial.idx.getLsbD 0 = false ∧
    gen (trial.table.get trial.method) trial.seed = (0x9D025789#32, 0x57899D02#32) ∧
    0xA7#8 = 0xA5#8 ^^^ (0x57899D02#32).extractLsb' 0 8 := by decide

/-- At the first odd index and at the last one before IDX wraps. -/
theorem witness_OddIndexByteReusesTheKeptDraw :
    ∀ x ∈ [1#32, 0xFFFFFFFF#32], { oddTrial 0#16 0#16 with idx := x }.err = false ∧
      { oddTrial 0#16 0#16 with idx := x }.TrialOpen ∧ { oddTrial 0#16 0#16 with idx := x }.idx.getLsbD 0 = true := by
  simp only [List.forall_mem_cons, List.not_mem_nil, false_implies, implies_true, and_true]; decide

theorem witness_ByteCommandsAlternateTheStep :
    IsByteCommand (.ebyte 0#8) ∧ IsByteCommand (.dbyte 0#8) ∧ { trial with idx := 0xFFFFFFFF#32 }.err = false ∧
    { trial with idx := 0xFFFFFFFF#32 }.TrialOpen := ⟨.inr rfl, .inl rfl, rfl, by decide⟩

/-- DBYTE with its output, and EBYTE with its input. -/
theorem witness_ChecksumsTakeThePlaintextByte :
    (trial.err = false ∧ trial.TrialOpen) ∧
    (∃ t, exec (.dbyte 0xA5#8) trial = .next t ∧ 0xA7#8 = t.result.extractLsb' 0 8) ∧
    (∃ t, exec (.ebyte 0xA5#8) trial = .next t) := ⟨by decide, ⟨_, rfl, by decide⟩, ⟨_, rfl⟩⟩

theorem witness_ChecksumAIgnoresOrderAndChecksumBDoesNot :
    List.Perm [0x01#8, 0x02#8] [0x02#8, 0x01#8] ∧ trial.err = false ∧ trial.TrialOpen ∧ trial.cka = 0#16 ∧
    trial.ckb = 0#16 := ⟨.swap _ _ _, by decide⟩

/-- Two open trials at the same place of the same trajectory, with different RESULT and CTRL. -/
theorem witness_DecryptingTheEncryptedBytesReturnsThePlaintext :
    ∀ t ∈ [{ trial with result := 9#32, ctrl := 3#2 }],
      trial.err = false ∧ trial.pend = false ∧ trial.TrialOpen ∧ t.err = false ∧ t.pend = false ∧ t.TrialOpen ∧
      trial.table = t.table ∧ trial.method = t.method ∧ trial.seed = t.seed ∧ trial.rlast = t.rlast ∧
      trial.idx = t.idx ∧ trial.cka = t.cka ∧ trial.ckb = t.ckb := by decide

theorem witness_PayloadMakesHalfAsManyDrawsAndOneMore :
    (4#3).toNat = (4 : Fin 5).val ∧ boot.err = false ∧
    (∀ i ∈ [Instr.ebyte 1#8, .dbyte 2#8, .ebyte 3#8], IsByteCommand i) ∧
    Instr.sealTrial.opcode ∈ [Opcode.check, .sealTrial] := by
  refine ⟨by decide, rfl, ?_, by decide⟩
  simp [IsByteCommand, Instr.opcode]

/-- In an open trial at either phase, and in a closed one. -/
theorem witness_PayloadCommandsFrame :
    IsByteCommand (.dbyte 0#8) ∧
    (∀ s ∈ [trial, oddTrial 1#16 1#16, closed], ∃ t, exec (.dbyte 0#8) s = .next t) ∧
    trial.TrialOpen ∧ (oddTrial 1#16 1#16).idx.getLsbD 0 = true ∧ ¬closed.TrialOpen :=
  ⟨.inl rfl, fun _ _ => ⟨_, rfl⟩, by decide⟩

theorem witness_CheckCorrectsAndComparesBothHalves :
    trial.err = false ∧ trial.TrialOpen ∧
    gen (trial.table.get trial.method) trial.seed = (0x9D025789#32, 0x57899D02#32) := by decide

theorem witness_SealWritesTheTrailerThatCheckUndoes :
    trial.err = false ∧ trial.TrialOpen ∧
    gen (trial.table.get trial.method) trial.seed = (0x9D025789#32, 0x57899D02#32) ∧
    0x9D02#16 = trial.cka ^^^ (0x57899D02#32).extractLsb' 0 16 ∧
    0x9D02#16 = trial.ckb + (0x57899D02#32).extractLsb' 0 16 := by decide

/-- MATCH rises at the CHECK of V-CH2 and falls at SEEDLD and SRST. -/
theorem witness_MatchIsSetByCheckAlone :
    (∃ t, step (latched (fed trial [0x9D029D02#32]) 0x60000000#32) = .next t ∧ trial.matchFlag = false ∧
      t.matchFlag = true) ∧
    (∃ t, step (latched (fed { closed with matchFlag := true } [0#32]) 0x20000000#32) = .next t ∧ t.matchFlag = false) ∧
    ((4#3).toNat ≤ 4 ∧ trial.err = false ∧ trial.TrialOpen) ∧
    StepResets (fed { closed with matchFlag := true } [0x10000000#32]) :=
  ⟨⟨_, rfl, rfl, by decide⟩, ⟨_, rfl, rfl⟩, by decide, .inr rfl⟩

theorem witness_ClosingCommandsFrame :
    Instr.sealTrial.opcode ∈ [Opcode.check, .sealTrial] ∧
    (∀ s ∈ [trial, closed], ∃ t, exec .sealTrial s = .next t) ∧ trial.TrialOpen ∧ ¬closed.TrialOpen :=
  ⟨by decide, fun _ _ => ⟨_, rfl⟩, by decide⟩

theorem witness_SealedFrameIsAcceptedWithItsPlaintext :
    boot.err = false ∧ boot.pend = false ∧ closed.table = boot.table ∧ closed.err = false ∧
    closed.pend = false := by decide

theorem witness_WctlWritesTheTwoEnableBitsAlone : ∃ t, exec (.wctl 3#2) trial = .next t := ⟨_, rfl⟩

/-- A step that raises: CHECK with a reserved bit set, as V-ER7. -/
theorem witness_ErrorsChangeOnlyTheErrorFields :
    ∃ t, step (latched (fed trial [0x0000FFFF#32]) 0x60000010#32) = .next t ∧ trial.err = false ∧ t.err = true :=
  ⟨_, rfl, rfl, by decide⟩

theorem witness_ErrorStateDiscardsEveryWord :
    failed.err = true ∧
    (∀ e ∈ (fed failed [0x20000002#32, 0x10000001#32]).input, e ≠ .rst ∧ e ≠ .word 0x10000000#32) ∧
    (∃ t, step (fed failed [0x10000000#32]) = .next t ∧ t.err = false) ∧
    (∃ t, step (fed failed [0x10000001#32]) = .next t ∧ t.err = true) :=
  ⟨rfl, by decide, ⟨_, rfl, rfl⟩, ⟨_, rfl, rfl⟩⟩

/-- A step that raises each of the five codes. -/
theorem witness_EachErrorCodeHasItsCause :
    (∃ t, step (fed trial [0x90000000#32]) = .next t ∧ t.err = true ∧ t.errcode = .illegalOpcode) ∧
    (∃ t, step (latched (fed trial [5#32]) 0x20000102#32) = .next t ∧ t.err = true ∧ t.errcode = .reservedBits) ∧
    (∃ t, step (latched (fed trial [1#32]) 0x20000005#32) = .next t ∧ t.err = true ∧ t.errcode = .badMethod) ∧
    (∃ t, step (fed boot [0x30000000#32]) = .next t ∧ t.err = true ∧ t.errcode = .notSeeded) ∧
    (∃ t, step (fed closed [0x30000000#32]) = .next t ∧ t.err = true ∧ t.errcode = .trialClosed) ∧
    trial.err = false := by
  refine ⟨⟨_, rfl, ?_⟩, ⟨_, rfl, ?_⟩, ⟨_, rfl, ?_⟩, ⟨_, rfl, ?_⟩, ⟨_, rfl, ?_⟩, rfl⟩ <;> decide

theorem witness_FillerThenSoftResetRecovers :
    (latched trial 0x60000000#32).err = false ∧ (latched trial 0x60000000#32).pend = true ∧
    (readPort 0#3 (latched trial 0x60000000#32)).getLsbD 11 = true := by decide

/-- A file of 32 bytes; a file of 33 bytes with one preamble byte corrupted. -/
theorem witness_BadFramesStartNoTrial :
    (List.replicate 32 0x51#8).length < 33 ∧
    33 ≤ (0x50#8 :: emptyFrame.drop 1).length ∧ (0x50#8 :: emptyFrame.drop 1).take 25 ≠ testPreamble.toList := by decide

/-- P3: over the empty frame the methods 4, 3 and 2 are wrong and method 1 succeeds. With the last trailer byte changed no
method matches, and in the error state the first trial is fatal. -/
theorem witness_AcceptedPlaintextComesFromTheFirstMatchingTrial :
    (boot.err = false ∧ boot.pend = false) ∧
    (∃ t, decodeFile testPreamble emptyFrame boot = .next (.ok [], t) ∧ readPort 0#3 t = 0x00000107#32) ∧
    (∃ s' t, WrongTrials ⟨0x0BADF00D#32, [], 0x9871#16, 0x9871#16⟩ [4, 3, 2] boot s' ∧
      runTrial ⟨0x0BADF00D#32, [], 0x9871#16, 0x9871#16⟩ 1 s' = .next (.success [], t)) ∧
    (∃ t, decodeFile testPreamble (emptyFrame.dropLast ++ [0x70#8]) boot = .next (.error .unknownFormat, t)) ∧
    (∃ t, decodeFile testPreamble emptyFrame failed = .next (.error .fatal, t)) :=
  ⟨by decide, ⟨_, rfl, by decide⟩, ⟨_, _, ⟨_, rfl, _, rfl, _, rfl, rfl⟩, rfl⟩, ⟨_, rfl⟩, ⟨_, rfl⟩⟩

/-- A failure that is not the container decoder's; and both ends of a container decoder over P3's frame. -/
theorem witness_PasswordSubtractsElevenPerPosition :
    DecodeFailure.unknownFormat ≠ .containerDecodeFailed ∧
    (∃ t, decodeQuest testPreamble (.replicate 8 0#8) (fun p _ => some p) emptyFrame boot = .next (.ok [], t)) ∧
    (∃ t, decodeQuest testPreamble (.replicate 8 0#8) (fun _ _ => (none : Option (List Byte))) emptyFrame boot =
      .next (.error .containerDecodeFailed, t)) := ⟨by decide, ⟨_, rfl⟩, ⟨_, rfl⟩⟩

/-- Every field of every statement at its last value that fits and its first that does not. -/
theorem test_assembler_bounds :
    ([.seedld 7 (2 ^ 32 - 1), .dbyte 255, .ebyte 255, .check 65535 65535, .wctl 3, .dstream [0, 255], .estream [255],
        .checkw (2 ^ 32 - 1), .trial 7 0 [255] 65535 65535] : List AsmStatement).all
      (fun st => (assembleStatement st).toOption.isSome) = true ∧
    ([.seedld 8 0, .seedld 0 (2 ^ 32), .dbyte 256, .ebyte 256, .check 65536 0, .check 0 65536, .wctl 4, .dstream [0, 256],
        .estream [256, 0], .checkw (2 ^ 32), .trial 8 0 [] 0 0, .trial 0 (2 ^ 32) [] 0 0, .trial 0 0 [256] 0 0,
        .trial 0 0 [] 65536 0, .trial 0 0 [] 0 65536] : List AsmStatement).all
      (fun st => (assembleStatement st).toOption.isNone) = true := by decide

end Sys2Proof.Tests
end

section
/-! PROOF. What a command and a step can do to the state, as named cases. -/

namespace Sys2Proof.Machine

@[simp] theorem raiseError_errcode (e : ErrCode) (s : State) :
    (raiseError e s).errcode = if s.err then s.errcode else e := by
  unfold raiseError; split <;> rfl

/-- The effect that the guard of a trial command lets through in an open trial; no other command has one. -/
def trialEffect (i : Instr) (s : State) : State :=
  match i with
  | .nextDraw => nextEffect s
  | .dbyte b => dbyteEffect b s
  | .ebyte b => ebyteEffect b s
  | .check a b => checkEffect a b s
  | .sealTrial => sealEffect s
  | .nop | .srst | .seedld _ _ | .wctl _ => s

/-- The commands that need an open trial, one by one. -/
theorem needsTrial_cases {i : Instr} (h : NeedsTrial i) :
    i = .nextDraw ∨ (∃ b, i = .dbyte b) ∨ (∃ b, i = .ebyte b) ∨ (∃ a b, i = .check a b) ∨ i = .sealTrial := by
  cases i <;> simp_all [NeedsTrial, Instr.opcode]

/-- The five trial commands are their effect behind the guard. -/
theorem execState_of_needsTrial {i : Instr} (h : NeedsTrial i) (s : State) :
    execState i s = inTrial (trialEffect i) s := by
  obtain rfl | ⟨b, rfl⟩ | ⟨b, rfl⟩ | ⟨a, b, rfl⟩ | rfl := needsTrial_cases h <;> rfl

@[simp] theorem trialEffect_seeded (i : Instr) (s : State) : (trialEffect i s).seeded = s.seeded := by
  cases i <;> simp [trialEffect, dbyteEffect, ebyteEffect, checkEffect, sealEffect]
@[simp] theorem trialEffect_err (i : Instr) (s : State) : (trialEffect i s).err = s.err := by
  cases i <;> simp [trialEffect, dbyteEffect, ebyteEffect, checkEffect, sealEffect]
@[simp] theorem trialEffect_errcode (i : Instr) (s : State) : (trialEffect i s).errcode = s.errcode := by
  cases i <;> simp [trialEffect, dbyteEffect, ebyteEffect, checkEffect, sealEffect]
@[simp] theorem trialEffect_method (i : Instr) (s : State) : (trialEffect i s).method = s.method := by
  cases i <;> simp [trialEffect, dbyteEffect, ebyteEffect, checkEffect, sealEffect]
@[simp] theorem trialEffect_pend (i : Instr) (s : State) : (trialEffect i s).pend = s.pend := by
  cases i <;> simp [trialEffect, dbyteEffect, ebyteEffect, checkEffect, sealEffect]

/-- CHECK and SEAL close the trial. -/
theorem trialEffect_done_of_closing {i : Instr} (h : i.opcode ∈ [Opcode.check, .sealTrial]) (s : State) :
    (trialEffect i s).done = true := by
  cases i <;> simp_all [Instr.opcode, trialEffect, checkEffect, sealEffect]

/-- The other trial commands leave DONE as it is. -/
theorem trialEffect_done_of_not_closing {i : Instr} (h : i.opcode ∉ [Opcode.check, .sealTrial]) (s : State) :
    (trialEffect i s).done = s.done := by
  cases i <;> simp_all [Instr.opcode, trialEffect, dbyteEffect, ebyteEffect]

/-- The trial commands but CHECK and SEAL leave MATCH as it is. -/
theorem trialEffect_matchFlag_of_not_closing {i : Instr} (h : i.opcode ∉ [Opcode.check, .sealTrial]) (s : State) :
    (trialEffect i s).matchFlag = s.matchFlag := by
  cases i <;> simp_all [Instr.opcode, trialEffect, dbyteEffect, ebyteEffect]

/-- A command that needs a trial, in an open one. -/
theorem exec_of_trialOpen {i : Instr} {s : State} (h : NeedsTrial i) (ho : s.TrialOpen) :
    exec i s = .next (trialEffect i s) := by
  rw [exec_eq, execState_of_needsTrial h, inTrial_open ho.1 ho.2]

/-- A command that needs a trial, before any SEEDLD. -/
theorem exec_of_unseeded {i : Instr} {s : State} (h : NeedsTrial i) (hs : s.seeded = false) :
    exec i s = .next (raiseError .notSeeded s) := by
  rw [exec_eq, execState_of_needsTrial h, inTrial_unseeded hs]

/-- A command that needs a trial, after the trial is closed. -/
theorem exec_of_trialClosed {i : Instr} {s : State} (h : NeedsTrial i) (hs : s.seeded = true) (hd : s.done = true) :
    exec i s = .next (raiseError .trialClosed s) := by
  rw [exec_eq, execState_of_needsTrial h, inTrial_done hs hd]

/-- SEEDLD of a method that exists opens a trial. -/
theorem exec_seedld_of_le {m : BitVec 3} (h : m.toNat ≤ 4) (raw : Word) (s : State) :
    ∃ k : Fin 5, m.toNat = k.val ∧ exec (.seedld m raw) s = .next (openTrial k raw s) := by
  obtain ⟨hm, _⟩ | ⟨k, hk, hm⟩ := methodIndex_cases m
  · omega
  · exact ⟨k, hk, by simp only [exec, execSeedld, hm]⟩

/-- Everything a command can do to the state. -/
inductive CommandEffect (i : Instr) (s : State) : State → Prop where
  | resets : i = .srst → CommandEffect i s (resetBlock s)
  | opens (m : BitVec 3) (raw : Word) (k : Fin 5) : i = .seedld m raw → CommandEffect i s (openTrial k raw s)
  | runs : NeedsTrial i → s.TrialOpen → CommandEffect i s (trialEffect i s)
  | raises (e : ErrCode) : e ≠ .none → CommandEffect i s (raiseError e s)
  | enables (e : BitVec 2) : i = .wctl e → CommandEffect i s { s with ctrl := e }
  | keeps : i = .nop → CommandEffect i s s

/-- A trial command runs its effect or raises an error, as the guard says. -/
theorem CommandEffect.of_needsTrial {i : Instr} (h : NeedsTrial i) (s : State) : CommandEffect i s (execState i s) := by
  rw [execState_of_needsTrial h]
  obtain ⟨_, he⟩ | ⟨_, _, he⟩ | ⟨hs, hd, he⟩ := inTrial_cases (trialEffect i) s <;> rw [he]
  · exact .raises _ (by decide)
  · exact .raises _ (by decide)
  · exact .runs h ⟨hs, hd⟩

theorem execState_effect (i : Instr) (s : State) : CommandEffect i s (execState i s) := by
  cases i with
  | nop => exact .keeps rfl
  | srst => exact .resets rfl
  | wctl e => exact .enables e rfl
  | seedld m raw =>
    obtain ⟨_, hm⟩ | ⟨k, _, hm⟩ := methodIndex_cases m <;> simp only [execState, hm]
    · exact .raises _ (by decide)
    · exact .opens m raw k rfl
  | nextDraw | dbyte _ | ebyte _ | check _ _ | sealTrial =>
    exact .of_needsTrial (by simp [NeedsTrial, Instr.opcode]) s

/-- Everything a step can do to the state. A command other than SRST runs only while ERR = 0, with its word taken and
PEND cleared; a step that does none of the rest changes the port's own state alone, and leaves PEND at 1 only where
ERR = 0 or PEND was 1. -/
inductive StepEffect (s : State) : State → Prop where
  | resets (u : State) : StepResets s → StepEffect s (resetBlock u)
  | opens (m : BitVec 3) (raw : Word) (k : Fin 5) (rest : List PortEvent) :
      ¬StepResets s → s.err = false → executes s = some (.seedld m raw) →
      StepEffect s (openTrial k raw { s with input := rest, pend := false })
  | runs (i : Instr) (rest : List PortEvent) :
      ¬StepResets s → s.err = false → executes s = some i → NeedsTrial i → s.TrialOpen →
      StepEffect s (trialEffect i { s with input := rest, pend := false })
  | raises (e : ErrCode) (rest : List PortEvent) :
      ¬StepResets s → s.err = false → e ≠ .none →
      StepEffect s (raiseError e { s with input := rest, pend := false })
  | enables (e : BitVec 2) (rest : List PortEvent) :
      ¬StepResets s → s.err = false → executes s = some (.wctl e) →
      StepEffect s { s with input := rest, pend := false, ctrl := e }
  | keeps (rest : List PortEvent) (pend : Bool) (w0 : Word) :
      ¬StepResets s → (pend = true → s.err = false ∨ s.pend = true) →
      StepEffect s { s with input := rest, pend := pend, w0 := w0 }

/-- A command that a step runs while ERR = 0 does in the step what it does by itself. -/
theorem StepEffect.of_command {s t : State} {i : Instr} {rest : List PortEvent} (hnr : ¬StepResets s)
    (herr : s.err = false) (hex : executes s = some i)
    (h : CommandEffect i { s with input := rest, pend := false } t) : StepEffect s t := by
  cases h with
  | resets hi => exact absurd (.inr (hi ▸ hex)) hnr
  | opens m raw k hi => exact .opens m raw k rest hnr herr (hi ▸ hex)
  | runs hi ho => exact .runs i rest hnr herr hex hi ho
  | raises e he => exact .raises e rest hnr herr he
  | enables e hi => exact .enables e rest hnr herr (hi ▸ hex)
  | keeps hi => exact .keeps rest false s.w0 hnr (by simp)

theorem step_effect {s t : State} (h : step s = .next t) : StepEffect s t := by
  obtain ⟨hin, hex, rfl⟩ | ⟨rest, hin, _, rfl⟩ | ⟨i, w, rest, hin, hex, hsrst, rfl⟩ |
    ⟨e, w, rest, hin, hex, herr, rfl⟩ | ⟨w, rest, hin, hex, herr, _, _, rfl⟩ |
    ⟨w, rest, hin, hex, _, _, rfl⟩ := step_cases h
  · exact .keeps t.input t.pend t.w0 (by simp [StepResets, hin, hex]) .inr
  · exact .resets _ (.inl (by simp [hin]))
  · by_cases hi : i = .srst
    · subst hi; exact .resets _ (.inr hex)
    · have herr : s.err = false := by simpa using mt hsrst hi
      have hnr : ¬StepResets s := by simp [StepResets, hin, hex, hi]
      exact .of_command hnr herr hex (by simpa [herr] using execState_effect i { s with input := rest, pend := false })
  · exact .raises _ rest (by simp [StepResets, hin, hex]) herr (by cases e <;> decide)
  · exact .keeps rest true w (by simp [StepResets, hin, hex]) fun _ => .inl herr
  · exact .keeps rest s.pend s.w0 (by simp [StepResets, hin, hex]) .inr

/-- A step that resets leaves what `resetBlock` leaves. -/
theorem step_of_stepResets {s t : State} (h : step s = .next t) (hr : StepResets s) : ∃ u, t = resetBlock u := by
  cases step_effect h with
  | resets u => exact ⟨u, rfl⟩
  | opens _ _ _ _ hnr | runs _ _ hnr | raises _ _ hnr | enables _ _ hnr | keeps _ _ _ hnr => exact absurd hr hnr

end Sys2Proof.Machine
end

section
/-! PROOF. The invariants of 10 R54: what each kind of step does to them. -/

namespace Sys2Proof.Machine

theorem toNat_methodBits (s : State) : (methodBits s).toNat = s.method.val := by
  have := s.method.isLt
  simp only [methodBits, BitVec.toNat_ofNat]
  omega

theorem methodBits_le (s : State) : (methodBits s).toNat ≤ 4 := by
  rw [toNat_methodBits]
  exact Nat.le_of_lt_succ s.method.isLt

theorem errCodeBits_eq_zero_iff (e : ErrCode) : errCodeBits e = 0#4 ↔ e = .none := by
  cases e <;> decide

/-- At reset, whatever the table and W0. -/
theorem reset_inv (table : MethodTable) (w0 : Word) : { State.reset with table := table, w0 := w0 }.Inv where
  done_seeded h := h
  match_done h := h
  err_code := by simp [State.reset]
  method_le := methodBits_le _
  pend_no_err _ := rfl
  unseeded _ := ⟨rfl, rfl, rfl, rfl, rfl⟩

theorem resetBlock_inv (u : State) : (resetBlock u).Inv where
  done_seeded h := h
  match_done h := h
  err_code := by simp
  method_le := methodBits_le _
  pend_no_err _ := rfl
  unseeded _ := ⟨rfl, rfl, rfl, rfl, rfl⟩

/-- The registers that no invariant speaks of are free, and so is PEND while ERR = 0. -/
theorem State.Inv.setPort {s : State} (h : s.Inv) {pend : Bool} (hp : pend = true → s.err = false)
    (input : List PortEvent) (w0 : Word) (ctrl : BitVec 2) :
    { s with input := input, pend := pend, w0 := w0, ctrl := ctrl }.Inv :=
  { h with pend_no_err := hp }

theorem State.Inv.openTrial {s : State} (h : s.Inv) (k : Fin 5) (raw : Word) : (openTrial k raw s).Inv where
  done_seeded _ := rfl
  match_done h := h
  err_code := h.err_code
  method_le := methodBits_le _
  pend_no_err := h.pend_no_err
  unseeded h := by simp at h

/-- CHECK and SEAL set DONE with MATCH, and the other trial commands leave both. -/
theorem State.Inv.trialEffect {s : State} (h : s.Inv) (ho : s.TrialOpen) (i : Instr) : (trialEffect i s).Inv where
  done_seeded _ := by simp [ho.1]
  match_done hm := by
    by_cases hi : i.opcode ∈ [Opcode.check, .sealTrial]
    · exact trialEffect_done_of_closing hi s
    · rw [trialEffect_matchFlag_of_not_closing hi] at hm
      rw [trialEffect_done_of_not_closing hi]
      exact h.match_done hm
  err_code := by simpa using h.err_code
  method_le := methodBits_le _
  pend_no_err := by simpa using h.pend_no_err
  unseeded hs := by simp [ho.1] at hs

/-- An error is raised only where nothing is pending. -/
theorem State.Inv.raiseError {s : State} (h : s.Inv) (hp : s.pend = false) {e : ErrCode} (he : e ≠ .none) :
    (raiseError e s).Inv where
  done_seeded := by simpa using h.done_seeded
  match_done := by simpa using h.match_done
  err_code := by
    have := h.err_code
    cases herr : s.err <;> simp_all
  method_le := methodBits_le _
  pend_no_err := by simp [hp]
  unseeded hs := by simpa [State.Unseeded] using h.unseeded (by simpa using hs)

theorem State.Inv.step {s t : State} (h : s.Inv) (hst : step s = .next t) : t.Inv := by
  have hport (rest : List PortEvent) : { s with input := rest, pend := false }.Inv :=
    h.setPort (pend := false) (by simp) rest s.w0 s.ctrl
  cases step_effect hst with
  | resets u => exact resetBlock_inv u
  | opens _ raw k rest => exact (hport rest).openTrial k raw
  | runs i rest _ _ _ _ ho => exact (hport rest).trialEffect ho i
  | raises e rest _ _ he => exact (hport rest).raiseError rfl he
  | enables e rest => exact h.setPort (pend := false) (by simp) rest s.w0 e
  | keeps rest pend w0 _ hp => exact h.setPort (fun hpend => (hp hpend).elim id h.pend_no_err) rest w0 s.ctrl

/-- Presenting events changes the input alone, which no invariant speaks of. -/
theorem Reachable.inv {s : State} (h : Reachable s) : s.Inv := by
  induction h with
  | reset table w0 => exact reset_inv table w0
  | present events _ ih => exact { ih with }
  | step _ hst ih => exact ih.step hst

end Sys2Proof.Machine

open Sys2Proof Sys2Proof.Machine

/-- Settles O19: the invariants hold at reset and every step keeps them. -/
theorem reachableStatesMeetTheInvariants : Obligations.ReachableStatesMeetTheInvariants := by
  intro s hs
  obtain ⟨hdone, hmatch, herr, hmethod, hpend, hun⟩ := hs.inv
  exact ⟨hdone, hmatch, herr.trans (errCodeBits_eq_zero_iff _).symm, hmethod, hpend, hun⟩

end

section
/-! PROOF. The STATUS flags: who sets them, who clears them, and how they are read. -/

namespace Sys2Proof.Machine

/-! ### Who writes SEEDED, DONE and MATCH -/

/-- The effects that write DONE or MATCH: CHECK and SEAL set DONE, and SEAL clears MATCH. -/
theorem trialEffect_flags (i : Instr) (s : State) :
    (i.opcode ∈ [Opcode.check, .sealTrial] ∧ (trialEffect i s).done = true ∧
      ((trialEffect i s).matchFlag = true → i.opcode = .check)) ∨
    ((trialEffect i s).done = s.done ∧ (trialEffect i s).matchFlag = s.matchFlag) := by
  by_cases hi : i.opcode ∈ [Opcode.check, .sealTrial]
  · refine .inl ⟨hi, trialEffect_done_of_closing hi s, ?_⟩
    cases i <;> simp_all [Instr.opcode, trialEffect, sealEffect]
  · exact .inr ⟨trialEffect_done_of_not_closing hi s, trialEffect_matchFlag_of_not_closing hi s⟩

/-- Everything a step can do to the three flags of a trial: a reset, SEEDLD, CHECK or SEAL, or nothing. -/
theorem step_flags {s t : State} (h : step s = .next t) :
    (StepResets s ∧ t.seeded = false ∧ t.done = false ∧ t.matchFlag = false) ∨
    (ExecutesOneOf [.seedld] s ∧ t.seeded = true ∧ t.done = false ∧ t.matchFlag = false) ∨
    (ExecutesOneOf [.check, .sealTrial] s ∧ t.seeded = s.seeded ∧ t.done = true ∧
      (t.matchFlag = true → ExecutesOneOf [.check] s)) ∨
    (t.seeded = s.seeded ∧ t.done = s.done ∧ t.matchFlag = s.matchFlag) := by
  cases step_effect h with
  | resets u hr => exact .inl ⟨hr, rfl, rfl, rfl⟩
  | opens m raw k rest _ _ hex => exact .inr (.inl ⟨⟨_, hex, by simp [Instr.opcode]⟩, rfl, rfl, rfl⟩)
  | runs i rest _ _ hex =>
    obtain ⟨hi, hdone, hcheck⟩ | ⟨hdone, hmatch⟩ := trialEffect_flags i { s with input := rest, pend := false }
    · exact .inr (.inr (.inl ⟨⟨i, hex, hi⟩, by simp, hdone, fun hm => ⟨i, hex, by simp [hcheck hm]⟩⟩))
    · exact .inr (.inr (.inr ⟨by simp, hdone, hmatch⟩))
  | raises e rest => exact .inr (.inr (.inr (by simp)))
  | enables e rest => exact .inr (.inr (.inr ⟨rfl, rfl, rfl⟩))
  | keeps rest pend w0 => exact .inr (.inr (.inr ⟨rfl, rfl, rfl⟩))

theorem ExecutesOneOf.mono {ops ops' : List Opcode} {s : State} (h : ExecutesOneOf ops s) (hsub : ops ⊆ ops') :
    ExecutesOneOf ops' s := by
  obtain ⟨i, hex, hi⟩ := h
  exact ⟨i, hex, hsub hi⟩

theorem step_sets_seeded {s t : State} (h : step s = .next t) (hs : s.seeded = false) (ht : t.seeded = true) :
    ExecutesOneOf [.seedld] s := by
  obtain ⟨_, ht', _⟩ | ⟨hex, _⟩ | ⟨_, ht', _⟩ | ⟨ht', _⟩ := step_flags h
  · simp [ht'] at ht
  · exact hex
  all_goals simp [ht', hs] at ht

theorem step_clears_seeded {s t : State} (h : step s = .next t) (hs : s.seeded = true) (ht : t.seeded = false) :
    StepResets s := by
  obtain ⟨hr, _⟩ | ⟨_, ht', _⟩ | ⟨_, ht', _⟩ | ⟨ht', _⟩ := step_flags h
  · exact hr
  · simp [ht'] at ht
  all_goals simp [ht', hs] at ht

theorem step_sets_done {s t : State} (h : step s = .next t) (hs : s.done = false) (ht : t.done = true) :
    ExecutesOneOf [.check, .sealTrial] s := by
  obtain ⟨_, _, ht', _⟩ | ⟨_, _, ht', _⟩ | ⟨hex, _⟩ | ⟨_, ht', _⟩ := step_flags h
  · simp [ht'] at ht
  · simp [ht'] at ht
  · exact hex
  · simp [ht', hs] at ht

theorem step_clears_done {s t : State} (h : step s = .next t) (hs : s.done = true) (ht : t.done = false) :
    ExecutesOneOf [.seedld] s ∨ StepResets s := by
  obtain ⟨hr, _⟩ | ⟨hex, _⟩ | ⟨_, _, ht', _⟩ | ⟨_, ht', _⟩ := step_flags h
  · exact .inr hr
  · exact .inl hex
  · simp [ht'] at ht
  · simp [ht', hs] at ht

theorem step_sets_match {s t : State} (h : step s = .next t) (hs : s.matchFlag = false) (ht : t.matchFlag = true) :
    ExecutesOneOf [.check] s := by
  obtain ⟨_, _, _, ht'⟩ | ⟨_, _, _, ht'⟩ | ⟨_, _, _, hcheck⟩ | ⟨_, _, ht'⟩ := step_flags h
  · simp [ht'] at ht
  · simp [ht'] at ht
  · exact hcheck ht
  · simp [ht', hs] at ht

theorem step_clears_match {s t : State} (h : step s = .next t) (hs : s.matchFlag = true) (ht : t.matchFlag = false) :
    ExecutesOneOf [.check, .seedld, .sealTrial] s ∨ StepResets s := by
  obtain ⟨hr, _⟩ | ⟨hex, _⟩ | ⟨hex, _⟩ | ⟨_, _, ht'⟩ := step_flags h
  · exact .inr hr
  · exact .inl (hex.mono (by simp))
  · exact .inl (hex.mono (by simp))
  · simp [ht', hs] at ht

/-- In the error state a step that is no reset discards what it takes. -/
theorem step_keeps_error {s t : State} (h : step s = .next t) (herr : s.err = true) (hnr : ¬StepResets s) :
    t.err = true ∧ t.errcode = s.errcode := by
  cases step_effect h with
  | resets u hr => exact absurd hr hnr
  | keeps rest pend w0 => exact ⟨herr, rfl⟩
  | opens _ _ _ _ _ hne | runs _ _ _ hne | raises _ _ _ hne | enables _ _ _ hne => simp [herr] at hne

/-! ### CHECK's comparison -/

theorem packHalves_inj {a b c d : Half} : packHalves a b = packHalves c d ↔ a = c ∧ b = d := by
  refine ⟨fun h => ⟨?_, ?_⟩, fun ⟨ha, hb⟩ => by rw [ha, hb]⟩
  · simpa using congrArg highHalf h
  · simpa using congrArg lowHalf h

/-- CHECK compares the two checksums with the two halves that it leaves in RESULT. -/
theorem checkEffect_matchFlag_iff (a b : Half) (s : State) :
    (checkEffect a b s).matchFlag = true ↔ packHalves s.cka s.ckb = (checkEffect a b s).result := by
  simp [checkEffect, packHalves_inj]

/-! ### The bits of STATUS -/

/-- Each bit of STATUS belongs to one of its parts (10 R39). -/
theorem getLsbD_statusWord (s : State) (i : Nat) : (statusWord s).getLsbD i =
    if i < 4 then (statusLow s).getLsbD i
    else if i < 8 then (errCodeBits s.errcode).getLsbD (i - 4)
    else if i < 11 then (methodBits s).getLsbD (i - 8)
    else (statusHigh s).getLsbD (i - 11) := by
  refine BitVec.getLsbD_append.trans ?_
  simp only [BitVec.getLsbD_append, BitVec.getLsbD_zero]
  grind

theorem getLsbD_statusLow (s : State) :
    (statusLow s).getLsbD 0 = s.seeded ∧ (statusLow s).getLsbD 1 = s.done ∧
    (statusLow s).getLsbD 2 = s.matchFlag ∧ (statusLow s).getLsbD 3 = s.err := by
  unfold statusLow
  generalize s.seeded = a, s.done = b, s.matchFlag = c, s.err = d
  revert a b c d
  decide

theorem getLsbD_statusHigh (s : State) :
    (statusHigh s).getLsbD 0 = s.pend ∧ (statusHigh s).getLsbD 1 = phase s ∧ (statusHigh s).getLsbD 2 = irq s := by
  unfold statusHigh
  generalize s.pend = a, phase s = b, irq s = c
  revert a b c
  decide

theorem extractLsb'_statusWord_errcode (s : State) : (statusWord s).extractLsb' 4 4 = errCodeBits s.errcode := by
  apply BitVec.eq_of_getLsbD_eq
  intro i hi
  simp only [BitVec.getLsbD_extractLsb', getLsbD_statusWord]
  grind

theorem extractLsb'_statusWord_method (s : State) : (statusWord s).extractLsb' 8 3 = methodBits s := by
  apply BitVec.eq_of_getLsbD_eq
  intro i hi
  simp only [BitVec.getLsbD_extractLsb', getLsbD_statusWord]
  grind

/-- The reserved bits lie beyond the three high flags. -/
theorem extractLsb'_statusWord_reserved (s : State) : (statusWord s).extractLsb' 14 18 = 0#18 := by
  apply BitVec.eq_of_getLsbD_eq
  intro i hi
  have hhigh : (statusHigh s).getLsbD (14 + i - 11) = false := BitVec.getLsbD_of_ge _ _ (by omega)
  simp only [BitVec.getLsbD_extractLsb', getLsbD_statusWord, BitVec.getLsbD_zero]
  grind

end Sys2Proof.Machine

open Sys2Proof Sys2Proof.Machine

/-- Settles O21: the step's effects but SEEDLD and reset leave SEEDED as it is. -/
theorem seededIsSetBySeedldAndClearedByResetAlone : Obligations.SeededIsSetBySeedldAndClearedByResetAlone := by
  refine ⟨fun m raw s hm => ?_, fun s t => step_clears_seeded, fun s t => step_sets_seeded, fun s t h hr => ?_,
    fun i s hi herr hs => ?_⟩
  · obtain ⟨k, _, hk⟩ := exec_seedld_of_le hm raw s
    exact ⟨_, hk, rfl⟩
  · obtain ⟨u, rfl⟩ := step_of_stepResets h hr
    rfl
  · rw [exec_of_unseeded hi hs, raiseError_of_no_err herr]

/-- Settles O22: only the effects of CHECK and SEAL set DONE, and only SEEDLD and reset clear it. -/
theorem doneClosesTheTrialUntilSeedldOrReset : Obligations.DoneClosesTheTrialUntilSeedldOrReset := by
  refine ⟨fun i s hi ho => ?_, fun s t => step_sets_done, fun s t => step_clears_done, fun m raw s hm => ?_,
    fun s t h hr => ?_, fun i s hi herr hs hd => ?_⟩
  · have hn : NeedsTrial i := by simp only [NeedsTrial, List.mem_cons] at hi ⊢; tauto
    exact ⟨_, exec_of_trialOpen hn ho, trialEffect_done_of_closing hi s⟩
  · obtain ⟨k, _, hk⟩ := exec_seedld_of_le hm raw s
    exact ⟨_, hk, rfl⟩
  · obtain ⟨u, rfl⟩ := step_of_stepResets h hr
    rfl
  · rw [exec_of_trialClosed hi hs hd, raiseError_of_no_err herr]

/-- Settles O23: with ERR = 1 a step that is no reset changes the port's own state alone. -/
theorem firstErrorIsKeptUntilReset : Obligations.FirstErrorIsKeptUntilReset := by
  refine ⟨fun s hinv => hinv.err_code.mp, fun s t => step_keeps_error, fun s t h hr => ?_⟩
  obtain ⟨u, rfl⟩ := step_of_stepResets h hr
  exact ⟨rfl, rfl⟩

/-- Settles O46: of the effects that write MATCH, CHECK's comparison alone can set it. -/
theorem matchIsSetByCheckAlone : Obligations.MatchIsSetByCheckAlone := by
  refine ⟨fun s t => step_sets_match, fun s t => step_clears_match, fun m raw s hm => ?_, fun s _ ho => ?_,
    fun a b s herr ho => ?_, fun s t h hr => ?_⟩
  · obtain ⟨k, _, hk⟩ := exec_seedld_of_le hm raw s
    exact ⟨_, hk, rfl⟩
  · exact ⟨_, exec_of_trialOpen (by simp [NeedsTrial, Instr.opcode]) ho, rfl⟩
  · exact ⟨_, exec_of_trialOpen (by simp [NeedsTrial, Instr.opcode]) ho, by simpa using herr,
      checkEffect_matchFlag_iff a b s⟩
  · obtain ⟨u, rfl⟩ := step_of_stepResets h hr
    rfl

/-- Settles O26: each address selects its register, and the halves of CKSUM are read back from the packed word. -/
theorem readPortReturnsTheListedRegisters : Obligations.ReadPortReturnsTheListedRegisters := fun s =>
  ⟨rfl, rfl, rfl, rfl, highHalf_packHalves s.cka s.ckb, lowHalf_packHalves s.cka s.ckb, rfl, rfl, rfl⟩

/-- Settles O25: each field's bits lie in one part of STATUS, and the parts hold the fields in their order. -/
theorem statusReadsItsFieldsAtTheirBits : Obligations.StatusReadsItsFieldsAtTheirBits := by
  refine ⟨fun s => ?_, by decide⟩
  obtain ⟨hseeded, hdone, hmatch, herr⟩ := getLsbD_statusLow s
  obtain ⟨hpend, hphase, hirq⟩ := getLsbD_statusHigh s
  exact ⟨(getLsbD_statusWord s 0).trans hseeded, (getLsbD_statusWord s 1).trans hdone,
    (getLsbD_statusWord s 2).trans hmatch, (getLsbD_statusWord s 3).trans herr, extractLsb'_statusWord_errcode s,
    (congrArg BitVec.toNat (extractLsb'_statusWord_method s)).trans (toNat_methodBits s),
    (getLsbD_statusWord s 11).trans hpend, (getLsbD_statusWord s 12).trans hphase,
    (getLsbD_statusWord s 13).trans hirq, extractLsb'_statusWord_reserved s⟩

end

section
/-! PROOF. The opcode map (30 R98): a row's match and mask columns against the OP field and the reserved bits. -/

namespace Sys2Proof

/-! ### A word0 as its OP field and the 28 bits below it -/

theorem opField_and (v w : Word) : opField (v &&& w) = opField v &&& opField w := BitVec.extractLsb'_and

theorem eq_iff_opField_eq_and_low_eq {v w : Word} :
    v = w ↔ opField v = opField w ∧ v.extractLsb' 0 28 = w.extractLsb' 0 28 := by
  refine ⟨fun h => by simp [h], fun ⟨hop, hlow⟩ => ?_⟩
  calc v = opField v ++ v.extractLsb' 0 28 := (BitVec.extractLsb'_append_extractLsb' (w := 4) (len := 28)).symm
    _ = opField w ++ w.extractLsb' 0 28 := by rw [hop, hlow]
    _ = w := BitVec.extractLsb'_append_extractLsb' (w := 4) (len := 28)

/-! ### The columns of the map -/

/-- The match column holds the row's OP value. -/
theorem opcodeOf_eq_some_iff (o : BitVec 4) (op : Opcode) :
    opcodeOf o = some op ↔ o = opField (opcodeRow op).matchBits := by
  revert o
  cases op <;> decide

theorem opcodeOf_eq_none_iff (o : BitVec 4) : opcodeOf o = none ↔ 9 ≤ o.toNat := by
  revert o
  decide

/-- The mask column is the whole OP field and the reserved bits of 30 R103. -/
theorem opcodeRow_mask (op : Opcode) :
    opField (opcodeRow op).mask = BitVec.allOnes 4 ∧ opField (reservedMask op) = 0#4 ∧
    (opcodeRow op).mask.extractLsb' 0 28 = (reservedMask op).extractLsb' 0 28 := by
  cases op <;> decide

/-- The match column has no bit set below the OP field, so the mask keeps all of it. -/
theorem opcodeRow_matchBits (op : Opcode) :
    (opcodeRow op).matchBits.extractLsb' 0 28 = 0#28 ∧
    (opcodeRow op).matchBits &&& (opcodeRow op).mask = (opcodeRow op).matchBits := by
  cases op <;> decide

/-- The reserved bits are clear exactly when the 28 low bits that the mask column keeps are. -/
theorem and_reservedMask_eq_zero_iff (op : Opcode) (word0 : Word) :
    word0 &&& reservedMask op = 0#32 ↔ (word0 &&& (opcodeRow op).mask).extractLsb' 0 28 = 0#28 := by
  obtain ⟨-, hop, hlow⟩ := opcodeRow_mask op
  rw [eq_iff_opField_eq_and_low_eq, opField_and, hop, BitVec.extractLsb'_and, BitVec.extractLsb'_and, hlow]
  simp [opField]

/-- Match and mask together ask for the row's OP and for clear reserved bits. -/
theorem selectsRow_iff (op : Opcode) (word0 : Word) :
    selectsRow op word0 = true ↔ opcodeOf (opField word0) = some op ∧ word0 &&& reservedMask op = 0#32 := by
  obtain ⟨hmatchLow, hmatch⟩ := opcodeRow_matchBits op
  obtain ⟨hmask, -, -⟩ := opcodeRow_mask op
  rw [selectsRow, beq_iff_eq, hmatch, eq_iff_opField_eq_and_low_eq, opField_and, hmask, BitVec.and_allOnes, hmatchLow,
    opcodeOf_eq_some_iff, and_reservedMask_eq_zero_iff]

/-! ### The decoder against the map -/

/-- What decodes carries its own OP and has clear reserved bits. -/
theorem decodeCommand_eq_ok_iff {word0 word1 : Word} {i : Instr} :
    decodeCommand word0 word1 = .ok i ↔
      opcodeOf (opField word0) = some i.opcode ∧ word0 &&& reservedMask i.opcode = 0#32 ∧
      i = operandsOf i.opcode word0 word1 := by
  refine ⟨fun h => ?_, fun ⟨hop, hr, hi⟩ => (decodeCommand_ok hop hr).trans (congrArg _ hi.symm)⟩
  obtain ⟨_, hd⟩ | ⟨op, hop, ⟨hr, hd⟩ | ⟨_, hd⟩⟩ := decodeCommand_cases word0 word1
  · simp [hd] at h
  · obtain rfl : operandsOf op word0 word1 = i := by simpa [hd] using h
    simpa using ⟨hop, hr⟩
  · simp [hd] at h

/-- A row is selected exactly by the words that decode to a command of the row. -/
theorem selectsRow_iff_decodes (op : Opcode) (word0 word1 : Word) :
    selectsRow op word0 = true ↔ ∃ i, decodeCommand word0 word1 = .ok i ∧ i.opcode = op := by
  rw [selectsRow_iff]
  constructor
  · rintro ⟨hop, hr⟩
    exact ⟨_, decodeCommand_ok hop hr, opcode_operandsOf op word0 word1⟩
  · rintro ⟨i, hd, rfl⟩
    obtain ⟨hop, hr, -⟩ := decodeCommand_eq_ok_iff.mp hd
    exact ⟨hop, hr⟩

/-- A word of a row's OP that does not select the row has a reserved bit set. -/
theorem reserved_of_selectsRow_eq_false {op : Opcode} {word0 : Word} (hop : opcodeOf (opField word0) = some op)
    (h : selectsRow op word0 = false) : word0 &&& reservedMask op ≠ 0#32 := fun hr => by
  simp [(selectsRow_iff op word0).mpr ⟨hop, hr⟩] at h

/-- Only the row of a word's own OP can select it. -/
theorem selectsRow_eq_false_of_opcode_ne {op op' : Opcode} {word0 : Word} (hop : opcodeOf (opField word0) = some op)
    (hne : op' ≠ op) : selectsRow op' word0 = false := by
  rw [Bool.eq_false_iff, Ne, selectsRow_iff, hop]
  rintro ⟨heq, -⟩
  exact hne (Option.some.inj heq).symm

/-- The words column is the command's length. -/
theorem length_encode (i : Instr) : (encode i).length = (opcodeRow i.opcode).words := by cases i <;> rfl

/-- The masks of 30 R103, by the value of OP. -/
theorem map_reservedMask_opcodeOf (o : BitVec 4) :
    (o.toNat ∈ [0, 1, 3, 6, 7] → (opcodeOf o).map reservedMask = some 0x0FFFFFFF#32) ∧
    (o.toNat = 2 → (opcodeOf o).map reservedMask = some 0x0FFFFFF8#32) ∧
    (o.toNat ∈ [4, 5] → (opcodeOf o).map reservedMask = some 0x0FFFFF00#32) ∧
    (o.toNat = 8 → (opcodeOf o).map reservedMask = some 0x0FFFFFFC#32) := by
  revert o
  decide

end Sys2Proof

open Sys2Proof Sys2Proof.Machine

/-- Settles O5: match and mask ask for the row's OP and for clear reserved bits, which is what the decoder asks for. -/
theorem opcodeMapRowsSelectTheirCommands : Obligations.OpcodeMapRowsSelectTheirCommands := by
  intro op word0 word1
  refine ⟨selectsRow_iff_decodes op word0 word1, fun hop hsel => ⟨fun op' => ?_, ?_⟩, ?_⟩
  · by_cases heq : op' = op
    · exact heq ▸ hsel
    · exact selectsRow_eq_false_of_opcode_ne hop heq
  · exact decodeCommand_reserved hop (reserved_of_selectsRow_eq_false hop hsel)
  · rintro i rfl
    exact length_encode i

/-- Settles O1: the examples' words are closed, so both directions compute. -/
theorem specExampleWordsDecode : Obligations.SpecExampleWordsDecode := by
  unfold Obligations.SpecExampleWordsDecode
  and_intros <;> rfl

end

section
/-! PROOF. The command port (30 section 3): what it does with a word, by ERR, PEND and the word's OP. -/

namespace Sys2Proof.Machine

/-! ### `execute` -/

/-- A malformed command raises its error. -/
theorem executeCommand_of_error {word0 word1 : Word} {e : EncodingError} (h : decodeCommand word0 word1 = .error e)
    (s : State) : executeCommand word0 word1 s = .next (raiseError (encodingErrCode e) s) := by
  simp [executeCommand, h]

/-- A well-formed command runs its own rule. -/
theorem executeCommand_of_ok {word0 word1 : Word} {i : Instr} (h : decodeCommand word0 word1 = .ok i) (s : State) :
    executeCommand word0 word1 s = exec i s := by simp [executeCommand, h]

/-- An executed command, malformed or not, takes no further word and leaves none latched. -/
theorem executeCommand_port (word0 word1 : Word) {s : State} (h : s.pend = false) :
    ∃ t, executeCommand word0 word1 s = .next t ∧ t.pend = false ∧ t.input = s.input := by
  rcases hd : decodeCommand word0 word1 with e | i
  · exact ⟨_, executeCommand_of_error hd s, by simpa using h, by simp⟩
  · obtain ⟨hinput, -, hpend⟩ := execState_port i s
    exact ⟨_, (executeCommand_of_ok hd s).trans (exec_eq i s), hpend h, hinput⟩

/-- The first check of 30 R102 that fails is the OP's. -/
theorem executeCommand_illegal {word0 : Word} {s : State} (herr : s.err = false) (hop : 9 ≤ (opField word0).toNat)
    (word1 : Word) : executeCommand word0 word1 s = .next { s with err := true, errcode := .illegalOpcode } := by
  rw [executeCommand_of_error (decodeCommand_illegal ((opcodeOf_eq_none_iff _).mpr hop)), raiseError_of_no_err herr]
  rfl

/-- The second check of 30 R102 that fails is the reserved bits'. -/
theorem executeCommand_reserved {word0 : Word} {op : Opcode} {s : State} (herr : s.err = false)
    (hop : opcodeOf (opField word0) = some op) (hr : word0 &&& reservedMask op ≠ 0#32) (word1 : Word) :
    executeCommand word0 word1 s = .next { s with err := true, errcode := .reservedBits } := by
  rw [executeCommand_of_error (decodeCommand_reserved hop hr), raiseError_of_no_err herr]
  rfl

/-! ### A step that takes a word -/

section
variable {s : State} {w : Word} {rest : List PortEvent} (hin : s.input = .word w :: rest)
include hin

/-- With PEND = 1 the word is word1 of the latched word0. -/
theorem step_word_of_pend (herr : s.err = false) (hp : s.pend = true) :
    step s = executeCommand s.w0 w { s with pend := false, input := rest } := by
  simp [step_word hin, acceptWord, herr, hp]

/-- The first word of two is latched. -/
theorem step_word_of_isTwoWord (herr : s.err = false) (hp : s.pend = false) (h2 : isTwoWord w = true) :
    step s = .next { s with w0 := w, pend := true, input := rest } := by
  simp [step_word hin, acceptWord, herr, hp, h2]

/-- A command of one word is executed at once. -/
theorem step_word_of_not_isTwoWord (herr : s.err = false) (hp : s.pend = false) (h2 : isTwoWord w = false) :
    step s = executeCommand w 0#32 { s with input := rest } := by
  simp [step_word hin, acceptWord, herr, hp, h2]

/-- The SRST word leaves the error state. -/
theorem step_word_of_err_srst (herr : s.err = true) (hw : w = srstWord) :
    step s = exec .srst { s with input := rest } := by
  simp [step_word hin, acceptWord, herr, hw]

/-- Every other word is discarded there. -/
theorem step_word_of_err_ne (herr : s.err = true) (hw : w ≠ srstWord) : step s = .next { s with input := rest } := by
  simp [step_word hin, acceptWord, herr, hw]

/-- What runs when word1 arrives has the OP of the latched word0. -/
theorem opcodeOf_w0_of_executes {i : Instr} (herr : s.err = false) (hp : s.pend = true) (h : executes s = some i) :
    opcodeOf (opField s.w0) = some i.opcode := by
  have hdec : (decodeCommand s.w0 w).toOption = some i := by simpa [executes, hin, herr, hp] using h
  rcases hd : decodeCommand s.w0 w with e | j
  · simp [hd, Except.toOption] at hdec
  · obtain rfl : j = i := by simpa [hd, Except.toOption] using hdec
    obtain ⟨hop, -, -⟩ := decodeCommand_eq_ok_iff.mp hd
    exact hop

/-- A latched word0 of two words is no SRST, so its word1 resets nothing, the SRST pattern included. -/
theorem not_stepResets_of_pend (herr : s.err = false) (hp : s.pend = true) (h2 : isTwoWord s.w0 = true) :
    ¬StepResets s := by
  rintro (hrst | hsrst)
  · simp [hin] at hrst
  · have hop := (opcodeOf_eq_some_iff _ _).mp (opcodeOf_w0_of_executes hin herr hp hsrst)
    rw [isTwoWord, hop] at h2
    exact absurd h2 (by decide)

end

end Sys2Proof.Machine

open Sys2Proof Sys2Proof.Machine

/-- Settles O11: each check is a case of the decoder, and `execute` raises or runs what the decoder answers. -/
theorem executeChecksOpcodeThenReservedBits : Obligations.ExecuteChecksOpcodeThenReservedBits := by
  intro s word0 word1 herr
  refine ⟨fun hop => executeCommand_illegal herr hop word1, fun rsv hrsv => ?_⟩
  obtain ⟨hfull, hseedld, hbyte, hwctl⟩ := map_reservedMask_opcodeOf (opField word0)
  have hmap : (opcodeOf (opField word0)).map reservedMask = some rsv := by
    obtain ⟨ho, rfl⟩ | ⟨ho, rfl⟩ | ⟨ho, rfl⟩ | ⟨ho, rfl⟩ := hrsv
    exacts [hfull ho, hseedld ho, hbyte ho, hwctl ho]
  obtain ⟨op, hop, rfl⟩ := Option.map_eq_some_iff.mp hmap
  refine ⟨fun hr => executeCommand_reserved herr hop hr word1, fun hr => ?_⟩
  have hd := decodeCommand_ok (word1 := word1) hop hr
  exact ⟨_, hd, executeCommand_of_ok hd s⟩

/-- Settles O6: a first word of two is latched and the next step executes; any other word executes in its own step. -/
theorem commandLengthDependsOnOpcodeAlone : Obligations.CommandLengthDependsOnOpcodeAlone := by
  intro s word0 word1 rest herr hp hin
  simp only [← isTwoWord_iff, Bool.not_eq_true]
  refine ⟨fun h2 => ?_, fun h2 => ?_⟩
  · have htake : step { s with w0 := word0, pend := true, input := .word word1 :: rest } =
        executeCommand word0 word1 { s with w0 := word0, pend := false, input := rest } :=
      step_word_of_pend rfl herr rfl
    obtain ⟨u, hu, hpend, hinput⟩ :=
      executeCommand_port word0 word1 (s := { s with w0 := word0, pend := false, input := rest }) rfl
    exact ⟨_, u, step_word_of_isTwoWord hin herr hp h2, rfl, htake.trans hu, hpend, hinput⟩
  · rw [step_word_of_not_isTwoWord hin herr hp h2]
    exact executeCommand_port word0 0#32 hp

/-- Settles O10: the three branches of the port while ERR = 0. -/
theorem portTakesWordsWhileNoError : Obligations.PortTakesWordsWhileNoError := by
  intro s w rest herr hin
  simp only [← isTwoWord_iff, Bool.not_eq_true]
  exact ⟨step_word_of_pend hin herr, step_word_of_isTwoWord hin herr, step_word_of_not_isTwoWord hin herr,
    not_stepResets_of_pend hin herr, .inl rfl⟩

/-- Settles O12: the two branches of the port while ERR = 1; the invariant excludes a latched word0 there. -/
theorem errorStateExecutesOnlySoftReset : Obligations.ErrorStateExecutesOnlySoftReset := by
  intro s w rest herr hin
  refine ⟨step_word_of_err_srst hin herr, step_word_of_err_ne hin herr, fun hinv => ?_⟩
  exact Bool.eq_false_iff.mpr fun hp => by simp [hinv.pend_no_err hp] at herr

end

section
/-! PROOF. One command on the port, sent by a host that finds it ready (ERR = 0 and PEND = 0). -/

namespace Sys2Proof

/-- The operand fields of an instruction's own words hold its operands. -/
theorem operandsOf_encode (i : Instr) :
    operandsOf i.opcode (encodeWord0 i) ((encodeWord1 i).getD 0#32) = i := by
  cases i with
  | nop | srst | nextDraw | sealTrial => rfl
  | seedld m raw =>
    have hm : (0x20000000#32 ||| m.setWidth 32).extractLsb' 0 3 = m := by revert m; decide
    exact congrArg (Instr.seedld · raw) hm
  | dbyte b => revert b; decide
  | ebyte b => revert b; decide
  | wctl e => revert e; decide
  | check a b => exact congrArg₂ Instr.check (Machine.highHalf_packHalves a b) (Machine.lowHalf_packHalves a b)

/-- Every instruction's word0 selects its own row, and asks for a word1 exactly when there is one. -/
theorem opcodeField_statement (i : Instr) : Laws.OpcodeField.Statement i := by
  cases i with
  | nop => exact Laws.OpcodeField.nop
  | srst => exact Laws.OpcodeField.srst
  | seedld m raw => exact Laws.OpcodeField.seedld m raw
  | nextDraw => exact Laws.OpcodeField.nextDraw
  | dbyte b => exact Laws.OpcodeField.dbyte b
  | ebyte b => exact Laws.OpcodeField.ebyte b
  | check a b => exact Laws.OpcodeField.check a b
  | sealTrial => exact Laws.OpcodeField.sealTrial
  | wctl e => exact Laws.OpcodeField.wctl e

theorem decodeCommand_encode (i : Instr) :
    decodeCommand (encodeWord0 i) ((encodeWord1 i).getD 0#32) = .ok i := by
  obtain ⟨hop, hr⟩ := (selectsRow_iff i.opcode (encodeWord0 i)).mp (opcodeField_statement i).1
  exact decodeCommand_eq_ok_iff.mpr ⟨hop, hr, (operandsOf_encode i).symm⟩

end Sys2Proof

namespace Sys2Proof.Machine

/-- The port decodes a one-word command and runs it at once. -/
theorem sendCommand_of_oneWord {i : Instr} {s : State} (hone : encodeWord1 i = none) (herr : s.err = false)
    (hp : s.pend = false) : sendCommand i s = exec i s := by
  have h2 : isTwoWord (encodeWord0 i) = false := by rw [(opcodeField_statement i).2, hone]; rfl
  have hdec : decodeCommand (encodeWord0 i) 0#32 = .ok i := by simpa [hone] using decodeCommand_encode i
  simp [sendCommand, encode, hone, sendWords, acceptWord, herr, hp, h2, executeCommand_of_ok hdec, exec_eq, andThen]

end Sys2Proof.Machine
end

section
/-! PROOF. The generator's corner cases, and SEEDLD as the boundary between two trials (spec 40). -/

namespace Sys2Proof.Machine

/-! ### The zero state -/

/-- The field extractions and carries of state 0 are all 0, so the constants alone remain. -/
theorem gen_zero (d : MethodDescriptor) : gen d 0#32 = (d.qConst ++ d.pConst, d.pConst ++ d.qConst) := by
  simp [gen, packHalves, carry16, lowHalf, highHalf]

theorem gen_zero_of_zero_consts {d : MethodDescriptor} (hpc : d.pConst = 0#16) (hqc : d.qConst = 0#16) :
    gen d 0#32 = (0#32, 0#32) := by
  rw [gen_zero, hpc, hqc]
  rfl

theorem gen_zero_of_allOnes_consts {d : MethodDescriptor} (hpc : d.pConst = 0xFFFF#16) (hqc : d.qConst = 0xFFFF#16) :
    gen d 0#32 = (0xFFFFFFFF#32, 0xFFFFFFFF#32) := by
  have hones : (0xFFFF#16 ++ 0xFFFF#16 : Word) = 0xFFFFFFFF#32 := by decide
  rw [gen_zero, hpc, hqc, hones]

/-- Both sums wrap. -/
theorem gen_allOnes_of_zero_consts (mask : Word) :
    gen ⟨mask, 0#16, 0#16⟩ 0xFFFFFFFF#32 = (0x0000FE00#32, 0xFE000000#32) := by
  simp [gen, packHalves, carry16, lowHalf, highHalf]

/-! ### A trial whose seed and constants are 0 -/

/-- An open trial that the port is ready to go on with, in which every draw is and was 0. -/
structure State.ZeroKeyed (s : State) : Prop where
  trialOpen : s.TrialOpen
  err : s.err = false
  pend : s.pend = false
  seed : s.seed = 0#32
  rlast : s.rlast = 0#32
  pConst : (currentMethod s).pConst = 0#16
  qConst : (currentMethod s).qConst = 0#16

namespace State.ZeroKeyed

variable {s : State}

theorem gen_currentMethod_zero (h : s.ZeroKeyed) : gen (currentMethod s) 0#32 = (0#32, 0#32) :=
  gen_zero_of_zero_consts h.pConst h.qConst

theorem drawOutput_eq_zero (h : s.ZeroKeyed) : drawOutput s = 0#32 := by
  rw [drawOutput, h.seed, h.gen_currentMethod_zero]

theorem keyByte_eq_zero (h : s.ZeroKeyed) : keyByte s = 0#8 := by
  cases hph : phase s with
  | false => rw [keyByte_even hph, h.drawOutput_eq_zero]; rfl
  | true => rw [keyByte_odd hph, h.rlast]; rfl

/-- With key byte 0 both commands pass the byte through, and so accumulate the same one. -/
theorem trialEffect_byte (h : s.ZeroKeyed) {i : Instr} {b : Byte} (hi : i = .dbyte b ∨ i = .ebyte b) :
    trialEffect i s = finishByte b (accumulate b (stepKey s)) := by
  have hdec : decryptByte b s = b := by simp [decryptByte, h.keyByte_eq_zero]
  have henc : encryptByte b s = b := by simp [encryptByte, h.keyByte_eq_zero]
  obtain rfl | rfl := hi
  · simp [trialEffect, dbyteEffect, hdec]
  · simp [trialEffect, ebyteEffect, henc]

/-- The next byte finds the trial as this one did: a draw from seed 0 gives 0. -/
theorem finishByte_accumulate (h : s.ZeroKeyed) (b : Byte) :
    (finishByte b (accumulate b (stepKey s))).ZeroKeyed where
  trialOpen := by simpa [State.TrialOpen] using h.trialOpen
  err := by simpa using h.err
  pend := by simpa using h.pend
  seed := by simp [stepKey_seed, h.seed, h.gen_currentMethod_zero]
  rlast := by simp [stepKey_rlast, h.drawOutput_eq_zero, h.rlast]
  pConst := by simpa [currentMethod] using h.pConst
  qConst := by simpa [currentMethod] using h.qConst

/-- One byte, sent by either command, comes out as it went in. -/
theorem sendCommand_byte (h : s.ZeroKeyed) {i : Instr} {b : Byte} (hi : i = .dbyte b ∨ i = .ebyte b) :
    ∃ t, sendCommand i s = .next t ∧ t.ZeroKeyed ∧ outputByte t = b := by
  have hone : encodeWord1 i = none := by obtain rfl | rfl := hi <;> rfl
  have hneeds : NeedsTrial i := by obtain rfl | rfl := hi <;> simp [NeedsTrial, Instr.opcode]
  refine ⟨finishByte b (accumulate b (stepKey s)), ?_, h.finishByte_accumulate b, by simp [outputByte, readPort]⟩
  rw [sendCommand_of_oneWord hone h.err h.pend, exec_of_trialOpen hneeds h.trialOpen, h.trialEffect_byte hi]

/-- A payload through any mixture of the two commands comes out as it went in. -/
theorem streamBytes_eq {command : Byte → Instr} (hc : ∀ b, command b = .dbyte b ∨ command b = .ebyte b) (p : List Byte)
    (h : s.ZeroKeyed) : ∃ t, streamBytes command p s = .next (p, t) ∧ t.ZeroKeyed := by
  induction p generalizing s with
  | nil => exact ⟨s, rfl, h⟩
  | cons b bs ih =>
    obtain ⟨s1, hsend, h1, hout⟩ := h.sendCommand_byte (hc b)
    obtain ⟨t, hrest, ht⟩ := ih h1
    exact ⟨t, by simp [streamBytes, hsend, andThen, hrest, hout], ht⟩

end State.ZeroKeyed

/-! ### SEEDLD -/

theorem exec_seedld_of_ge {m : BitVec 3} (h : 5 ≤ m.toNat) (raw : Word) (s : State) :
    exec (.seedld m raw) s = .next (raiseError .badMethod s) := by
  simp only [exec, execSeedld, methodIndex_of_ge h]

end Sys2Proof.Machine

open Sys2Proof Sys2Proof.Machine

/-- Settles O30: state 0 leaves the method's constants alone, so under p = q = 0 every byte of a trial with seed 0 finds
key byte 0 again, by induction on the payload; the all-ones states compute. -/
theorem generatorCornerCases : Obligations.GeneratorCornerCases := by
  refine ⟨fun _ => gen_zero_of_zero_consts rfl rfl, ?_, fun _ => gen_zero_of_allOnes_consts rfl rfl, gen_zero,
    gen_allOnes_of_zero_consts⟩
  intro command p s hc hopen herr hpend hseed hrlast hpc hqc
  obtain ⟨t, hrun, ht⟩ := State.ZeroKeyed.streamBytes_eq hc p ⟨hopen, herr, hpend, hseed, hrlast, hpc, hqc⟩
  exact ⟨t, hrun, ht.seed, ht.rlast⟩

/-- Settles O33: an opened trial takes from the old state only the registers that the two states share. -/
theorem nothingOfATrialSurvivesSeedld : Obligations.NothingOfATrialSurvivesSeedld := by
  intro m raw s t hm hctrl herr herrcode hpend hw0 htable hinput hresets
  obtain ⟨k, hk, hs⟩ := exec_seedld_of_le hm raw s
  obtain ⟨k', hk', ht⟩ := exec_seedld_of_le hm raw t
  obtain rfl : k = k' := Fin.ext (hk.symm.trans hk')
  have hsame : openTrial k raw t = openTrial k raw s := by
    simp only [openTrial, installedSeed, hctrl, herr, herrcode, hpend, hw0, htable, hinput, hresets]
  exact ⟨openTrial k raw s, hs, hsame ▸ ht, openTrial_ctrl k raw s, openTrial_err k raw s⟩

/-- Settles O32: such an M names no method, and raising an error with ERR = 0 writes ERR and ERRCODE alone. -/
theorem seedldRefusesMethodsFiveToSeven : Obligations.SeedldRefusesMethodsFiveToSeven := by
  intro m raw s herr hm
  rw [exec_seedld_of_ge hm, raiseError_of_no_err herr]

end

section
/-! PROOF. One byte command in an open trial (spec 41): the two steps, and the checksums. -/

namespace Sys2Proof.Machine

/-! ### The commands -/

theorem isByteCommand_cases {i : Instr} (h : IsByteCommand i) : (∃ b, i = .dbyte b) ∨ ∃ b, i = .ebyte b := by
  cases i <;> simp_all [IsByteCommand, Instr.opcode]

theorem IsByteCommand.needsTrial {i : Instr} (h : IsByteCommand i) : NeedsTrial i := by
  rcases h with h | h <;> simp [NeedsTrial, h]

theorem exec_dbyte_of_trialOpen {s : State} (ho : s.TrialOpen) (b : Byte) :
    exec (.dbyte b) s = .next (dbyteEffect b s) :=
  exec_of_trialOpen (IsByteCommand.needsTrial (.inl rfl)) ho

theorem exec_ebyte_of_trialOpen {s : State} (ho : s.TrialOpen) (b : Byte) :
    exec (.ebyte b) s = .next (ebyteEffect b s) :=
  exec_of_trialOpen (IsByteCommand.needsTrial (.inr rfl)) ho

/-- Both commands end in the same update; they differ in the byte they output and the byte they accumulate. -/
theorem trialEffect_of_isByteCommand {i : Instr} (h : IsByteCommand i) (s : State) :
    ∃ out pt, trialEffect i s = finishByte out (accumulate pt (stepKey s)) := by
  obtain ⟨b, rfl⟩ | ⟨b, rfl⟩ := isByteCommand_cases h
  · exact ⟨_, _, rfl⟩
  · exact ⟨_, _, rfl⟩

/-! ### The byte steps by phase -/

theorem decryptByte_even {s : State} (h : phase s = false) (b : Byte) :
    decryptByte b s = b ^^^ lowByte (drawOutput s) := by
  simp [decryptByte, h, keyByte_even h]

theorem decryptByte_odd {s : State} (h : phase s = true) (b : Byte) : decryptByte b s = b - lowByte s.rlast := by
  simp [decryptByte, h, keyByte_odd h]

theorem encryptByte_even {s : State} (h : phase s = false) (b : Byte) :
    encryptByte b s = b ^^^ lowByte (drawOutput s) := by
  simp [encryptByte, h, keyByte_even h]

theorem encryptByte_odd {s : State} (h : phase s = true) (b : Byte) : encryptByte b s = b + lowByte s.rlast := by
  simp [encryptByte, h, keyByte_odd h]

/-- Adding 1 flips the lowest bit, at the wrap too. -/
@[simp] theorem phase_finishByte (out : Byte) (s : State) : phase (finishByte out s) = !phase s := by
  simp only [phase, finishByte_idx]
  rw [BitVec.getLsbD_add (by decide)]
  simp

@[simp] theorem phase_accumulate (pt : Byte) (s : State) : phase (accumulate pt s) = phase s := rfl

@[simp] theorem phase_stepKey (s : State) : phase (stepKey s) = phase s := by simp [phase]

/-! ### The output and the checksums -/

@[simp] theorem lowByte_dbyteEffect_result (b : Byte) (s : State) :
    lowByte (dbyteEffect b s).result = decryptByte b s := lowByte_zext32 _

@[simp] theorem lowByte_ebyteEffect_result (b : Byte) (s : State) :
    lowByte (ebyteEffect b s).result = encryptByte b s := lowByte_zext32 _

/-- DBYTE of EBYTE's output, in the state that EBYTE found, outputs EBYTE's byte. -/
theorem dbyteEffect_ebyteEffect_result (b : Byte) (s : State) :
    (dbyteEffect (lowByte (ebyteEffect b s).result) s).result = zext32 b := by
  rw [lowByte_ebyteEffect_result]
  exact congrArg zext32 (decryptByte_encryptByte b s)

/-- EBYTE of DBYTE's output, in the state that DBYTE found, outputs DBYTE's byte. -/
theorem ebyteEffect_dbyteEffect_result (b : Byte) (s : State) :
    (ebyteEffect (lowByte (dbyteEffect b s).result) s).result = zext32 b := by
  rw [lowByte_dbyteEffect_result]
  exact congrArg zext32 (encryptByte_decryptByte b s)

/-- Rotating left by 4 puts the top nibble below the other twelve bits. -/
theorem rotl16_four (x : Half) : rotl16 x 4 = x.extractLsb' 0 12 ++ x.extractLsb' 12 4 := by
  apply BitVec.eq_of_getLsbD_eq
  intro i hi
  rw [BitVec.getLsbD_append]
  by_cases h4 : i < 4
  · simp [rotl16, h4, hi, Nat.add_comm]
  · have htop : x.getLsbD (12 + i) = false := BitVec.getLsbD_of_ge _ _ (by omega)
    have h12 : i - 4 < 12 := by omega
    simp [rotl16, h4, hi, h12, htop, -BitVec.getLsbD_eq_getElem]

end Sys2Proof.Machine

open Sys2Proof Sys2Proof.Machine

/-- Settles O36: at phase 0 both commands XOR with the low byte of the draw that `stepKey` makes. -/
theorem evenIndexByteIsXoredWithAFreshDraw : Obligations.EvenIndexByteIsXoredWithAFreshDraw := by
  intro b out s s' r _ ho hph hgen hout
  have hgen' : gen (currentMethod s) s.seed = (s', r) := hgen
  have hr : drawOutput s = r := congrArg Prod.snd hgen'
  have hdec : decryptByte b s = out := by rw [decryptByte_even hph, hr, hout, lowByte]
  have henc : encryptByte b s = out := by rw [encryptByte_even hph, hr, hout, lowByte]
  refine ⟨⟨_, exec_dbyte_of_trialOpen ho b, ?_⟩, ⟨_, exec_ebyte_of_trialOpen ho b, ?_⟩⟩
  · simp [dbyteEffect, stepKey_even hph, hgen', hr, hdec, zext16, zext32]
  · simp [ebyteEffect, stepKey_even hph, hgen', hr, henc, zext16, zext32]

/-- Settles O37: at phase 1 `stepKey` changes nothing, and in one state each command's byte undoes the other's. -/
theorem oddIndexByteReusesTheKeptDraw : Obligations.OddIndexByteReusesTheKeptDraw := by
  intro b s _ ho hph
  have hdec := decryptByte_odd hph
  have henc := encryptByte_odd hph
  refine ⟨⟨_, exec_dbyte_of_trialOpen ho b, ?_⟩, ⟨_, exec_ebyte_of_trialOpen ho b, ?_⟩, ?_⟩
  · simp [dbyteEffect, stepKey_odd hph, hdec, zext32, lowByte]
  · simp [ebyteEffect, stepKey_odd hph, henc, zext32, lowByte]
  · intro t u v ht hu hv
    cases (exec_ebyte_of_trialOpen ho b).symm.trans ht
    cases (exec_dbyte_of_trialOpen ho _).symm.trans hu
    cases (exec_dbyte_of_trialOpen ho b).symm.trans hv
    refine ⟨dbyteEffect_ebyteEffect_result b s, fun x hx => ?_⟩
    cases (exec_ebyte_of_trialOpen ho _).symm.trans hx
    exact ebyteEffect_dbyteEffect_result b s

/-- Settles O38: the update that both commands end in adds 1 to IDX and leaves the trial open. -/
theorem byteCommandsAlternateTheStep : Obligations.ByteCommandsAlternateTheStep := by
  intro i s hi _ ho
  obtain ⟨out, pt, heff⟩ := trialEffect_of_isByteCommand hi s
  refine ⟨_, exec_of_trialOpen hi.needsTrial ho, ?_⟩
  have hphase : phase (finishByte out (accumulate pt (stepKey s))) = !phase s := by simp
  rw [heff]
  exact ⟨by simp, hphase, by simpa [State.TrialOpen] using ho⟩

/-- Settles O39: both commands accumulate the plaintext byte, which DBYTE also outputs. -/
theorem checksumsTakeThePlaintextByte : Obligations.ChecksumsTakeThePlaintextByte := by
  intro i pt s t _ ho ht hpt
  obtain ⟨out, rfl⟩ : ∃ out, t = finishByte out (accumulate pt (stepKey s)) := by
    obtain ⟨⟨b, rfl⟩, rfl⟩ | rfl := hpt
    · cases (exec_dbyte_of_trialOpen ho b).symm.trans ht
      exact ⟨decryptByte b s, by rw [← lowByte, lowByte_dbyteEffect_result, dbyteEffect]⟩
    · cases (exec_ebyte_of_trialOpen ho pt).symm.trans ht
      exact ⟨encryptByte pt s, rfl⟩
  simp [rotl16_four, zext16]

end

section
/-! PROOF. Runs of byte commands: what they add to checksum A, and how many draws they make (spec 41). -/

namespace Sys2Proof.Machine

/-! ### Checksum A -/

theorem execAll_append (is js : List Instr) (s : State) :
    execAll (is ++ js) s = andThen (execAll is s) (execAll js) := by
  induction is generalizing s with
  | nil => rfl
  | cons i is ih => simp [execAll, exec_eq, andThen, ih]

/-- A run of EBYTE commands adds each plaintext byte to checksum A. -/
theorem execAll_ebyte_cka (p : List Byte) {s : State} (ho : s.TrialOpen) :
    ∃ t, execAll (p.map .ebyte) s = .next t ∧ t.cka = s.cka + (p.map zext16).sum := by
  induction p generalizing s with
  | nil => exact ⟨s, rfl, by simp⟩
  | cons b p ih =>
    obtain ⟨t, hrun, hcka⟩ := ih (s := ebyteEffect b s) (by simpa [State.TrialOpen, ebyteEffect] using ho)
    refine ⟨t, by simp [execAll, exec_ebyte_of_trialOpen ho, andThen, hrun], ?_⟩
    simp [hcka, ebyteEffect, add_assoc]

/-- Two plaintext bytes through EBYTE. -/
theorem execAll_two_ebytes (a b : Byte) {s : State} (ho : s.TrialOpen) :
    ∃ t, execAll [.ebyte a, .ebyte b] s = .next t ∧ t.cka = s.cka + zext16 a + zext16 b ∧
      t.ckb = rotl16 (rotl16 s.ckb 4 + zext16 a) 4 + zext16 b := by
  have ho' : (ebyteEffect a s).TrialOpen := by simpa [State.TrialOpen, ebyteEffect] using ho
  refine ⟨ebyteEffect b (ebyteEffect a s), ?_, ?_⟩
  · simp [execAll, exec_ebyte_of_trialOpen ho, exec_ebyte_of_trialOpen ho', andThen]
  · simp [ebyteEffect]

/-! ### Draws -/

/-- The generator state after one draw. -/
def nextSeed (d : MethodDescriptor) (x : Word) : Word := (gen d x).1

/-- How many of the next `n` byte commands draw: every other one, and the first of them at phase 0. -/
def drawCount (ph : Bool) (n : Nat) : Nat := if ph then n / 2 else (n + 1) / 2

/-- A draw at phase 0 and none at phase 1, and then the other phase. -/
theorem drawCount_succ (ph : Bool) (n : Nat) : drawCount ph (n + 1) = drawCount (!ph) n + if ph then 0 else 1 := by
  cases ph
  · exact Nat.add_div_right n Nat.two_pos
  · rfl

/-- `t` is what `n` byte commands can make of the open trial `s`. -/
structure AfterBytes (n : Nat) (s t : State) : Prop where
  trialOpen : t.TrialOpen
  currentMethod_eq : currentMethod t = currentMethod s
  seed : t.seed = (nextSeed (currentMethod s))^[drawCount (phase s) n] s.seed
  idx : t.idx = s.idx + BitVec.ofNat 32 n

/-- The commands after the first one find the other phase, and a seed advanced by the first one's draw, if there was
one. -/
theorem AfterBytes.cons {n : Nat} {s t : State} {out pt : Byte}
    (h : AfterBytes n (finishByte out (accumulate pt (stepKey s))) t) : AfterBytes (n + 1) s t where
  trialOpen := h.trialOpen
  currentMethod_eq := by simpa [currentMethod] using h.currentMethod_eq
  seed := by
    have hm : currentMethod (finishByte out (accumulate pt (stepKey s))) = currentMethod s := by simp [currentMethod]
    rw [h.seed, hm, drawCount_succ]
    cases hph : phase s <;> simp [hph, stepKey_seed, nextSeed]
  idx := by simp [h.idx, BitVec.ofNat_add, add_assoc, add_comm 1#32]

theorem execAll_byteCommands {cmds : List Instr} (hc : ∀ i ∈ cmds, IsByteCommand i) {s : State} (ho : s.TrialOpen) :
    ∃ t, execAll cmds s = .next t ∧ AfterBytes cmds.length s t := by
  induction cmds generalizing s with
  | nil => exact ⟨s, rfl, ho, rfl, by cases h : phase s <;> simp [drawCount], by simp⟩
  | cons i cmds ih =>
    obtain ⟨hi, hcmds⟩ := List.forall_mem_cons.mp hc
    obtain ⟨out, pt, heff⟩ := trialEffect_of_isByteCommand hi s
    obtain ⟨t, hrun, ht⟩ := ih hcmds (s := trialEffect i s) (by simpa [heff, State.TrialOpen] using ho)
    exact ⟨t, by simp [execAll, exec_of_trialOpen hi.needsTrial ho, andThen, hrun], (heff ▸ ht).cons⟩

/-- CHECK and SEAL in an open trial draw once and leave IDX as it is. -/
theorem exec_closing {i : Instr} (h : i.opcode ∈ [Opcode.check, .sealTrial]) {s : State} (ho : s.TrialOpen) :
    ∃ t, exec i s = .next t ∧ t.seed = nextSeed (currentMethod s) s.seed ∧ t.idx = s.idx := by
  cases i with
  | check | sealTrial => exact ⟨_, exec_of_trialOpen (by simp [NeedsTrial, Instr.opcode]) ho, rfl, rfl⟩
  | nop | srst | seedld | nextDraw | dbyte | ebyte | wctl => simp [Instr.opcode] at h

end Sys2Proof.Machine

open Sys2Proof Sys2Proof.Machine

/-- Settles O40: a run adds the sum of its bytes to checksum A, and a sum is the same in any order; the example
computes. -/
theorem checksumAIgnoresOrderAndChecksumBDoesNot : Obligations.ChecksumAIgnoresOrderAndChecksumBDoesNot := by
  constructor
  · intro p q s hpq _ ho
    obtain ⟨t, ht, hta⟩ := execAll_ebyte_cka p ho
    obtain ⟨u, hu, hua⟩ := execAll_ebyte_cka q ho
    exact ⟨t, u, ht, hu, by rw [hta, hua, (hpq.map zext16).sum_eq]⟩
  · intro s _ ho hcka hckb
    obtain ⟨t, ht, hta, htb⟩ := execAll_two_ebytes 0x01#8 0x02#8 ho
    obtain ⟨u, hu, hua, hub⟩ := execAll_two_ebytes 0x02#8 0x01#8 ho
    rw [hcka] at hta hua
    rw [hckb] at htb hub
    exact ⟨t, u, ht, hu, hta.trans (by decide), htb.trans (by decide), hua.trans (by decide), hub.trans (by decide)⟩

/-- Settles O42: SEEDLD starts at phase 0, so every other byte command draws, from the first on; the closing command
adds its own draw. -/
theorem payloadMakesHalfAsManyDrawsAndOneMore : Obligations.PayloadMakesHalfAsManyDrawsAndOneMore := by
  intro m k raw cmds last s hm _ hcmds hlast
  have hopen : exec (.seedld m raw) s = .next (openTrial k raw s) := by
    simp only [exec, execSeedld, methodIndex_of_le hm]
  obtain ⟨t, hrun, ht⟩ := execAll_byteCommands hcmds (s := openTrial k raw s) ⟨rfl, rfl⟩
  have hall : execAll (.seedld m raw :: cmds) s = .next t := by simp only [execAll, hopen, andThen, hrun]
  have hcur : currentMethod (openTrial k raw s) = s.table.get k := rfl
  have hphase : phase (openTrial k raw s) = false := by simp [phase]
  have hseed : t.seed = (nextSeed (s.table.get k))^[(cmds.length + 1) / 2] (raw ^^^ (s.table.get k).seedMask) := by
    rw [ht.seed, hcur, hphase]
    rfl
  have hidx : t.idx = BitVec.ofNat 32 cmds.length := by simp [ht.idx]
  obtain ⟨u, hclose, huseed, huidx⟩ := exec_closing hlast ht.trialOpen
  refine ⟨⟨t, hall, hseed, hidx⟩, ⟨u, ?_, ?_, huidx.trans hidx⟩⟩
  · rw [execAll_append, hall]
    simp only [andThen, execAll, hclose]
  · rw [huseed, hseed, ht.currentMethod_eq, hcur]
    exact (Function.iterate_succ_apply' _ _ _).symm

end

section
/-! PROOF. DBYTE over what EBYTE produced (41 R172): two trials that stand at the same place stay together. -/

namespace Sys2Proof.Machine

/-- An open trial that the port is ready to go on with. -/
structure State.TrialReady (s : State) : Prop where
  trialOpen : s.TrialOpen
  err : s.err = false
  pend : s.pend = false

/-- Two trials at the same place of the same trajectory: they agree in everything a byte command reads. -/
structure SamePlace (s t : State) : Prop where
  table : s.table = t.table
  method : s.method = t.method
  seed : s.seed = t.seed
  rlast : s.rlast = t.rlast
  idx : s.idx = t.idx
  cka : s.cka = t.cka
  ckb : s.ckb = t.ckb

namespace SamePlace

variable {s t : State}

theorem phase_eq (h : SamePlace s t) : phase s = phase t := by simp only [phase, h.idx]

theorem currentMethod_eq (h : SamePlace s t) : currentMethod s = currentMethod t := by
  simp only [currentMethod, h.table, h.method]

theorem drawOutput_eq (h : SamePlace s t) : drawOutput s = drawOutput t := by
  simp only [drawOutput, h.currentMethod_eq, h.seed]

theorem encryptByte_eq (h : SamePlace s t) (b : Byte) : encryptByte b s = encryptByte b t := by
  simp only [encryptByte, keyByte, h.phase_eq, h.drawOutput_eq, h.rlast]

/-- Accumulating the same byte keeps two trials together, whatever each outputs. -/
theorem finishByte_accumulate (h : SamePlace s t) (out out' pt : Byte) :
    SamePlace (finishByte out (accumulate pt (stepKey s))) (finishByte out' (accumulate pt (stepKey t))) where
  table := by simp [h.table]
  method := by simp [h.method]
  seed := by simp [stepKey_seed, h.phase_eq, h.currentMethod_eq, h.seed]
  rlast := by simp [stepKey_rlast, h.phase_eq, h.drawOutput_eq, h.rlast]
  idx := by simp [h.idx]
  cka := by simp [h.cka]
  ckb := by simp [h.ckb]

/-- The first trial encrypts a byte and the second decrypts what comes out: both accumulate the plaintext byte. -/
theorem ebyteEffect_dbyteEffect (h : SamePlace s t) (b : Byte) :
    SamePlace (ebyteEffect b s) (dbyteEffect (encryptByte b s) t) := by
  rw [dbyteEffect, h.encryptByte_eq b, decryptByte_encryptByte]
  exact h.finishByte_accumulate _ _ _

end SamePlace

/-- The port runs a byte command at once, and is ready for the next one. -/
theorem State.TrialReady.sendCommand {s : State} (h : s.TrialReady) {i : Instr} (hi : IsByteCommand i) :
    sendCommand i s = .next (trialEffect i s) ∧ (trialEffect i s).TrialReady := by
  obtain ⟨out, pt, heff⟩ := trialEffect_of_isByteCommand hi s
  have hone : encodeWord1 i = none := by obtain ⟨b, rfl⟩ | ⟨b, rfl⟩ := isByteCommand_cases hi <;> rfl
  refine ⟨?_, by simpa [heff, State.TrialOpen] using h.trialOpen, by simpa using h.err, by simpa using h.pend⟩
  rw [sendCommand_of_oneWord hone h.err h.pend, exec_of_trialOpen hi.needsTrial h.trialOpen]

/-- Streaming one more byte through DBYTE or EBYTE. -/
theorem streamBytes_cons {command : Byte → Instr} {b : Byte} {bs out : List Byte} {s s1 t : State}
    (hsend : sendCommand (command b) s = .next s1) (hrest : streamBytes command bs s1 = .next (out, t)) :
    streamBytes command (b :: bs) s = .next (outputByte s1 :: out, t) := by
  simp only [streamBytes, hsend, andThen, hrest]

/-- A payload encrypted in one trial and decrypted in another at the same place comes back; the trials stay together, and
the port is ready to go on with both. -/
theorem SamePlace.roundTrip (p : List Byte) {s t : State} (h : SamePlace s t) (hs : s.TrialReady) (ht : t.TrialReady) :
    ∃ c s' t', streamBytes .ebyte p s = .next (c, s') ∧ streamBytes .dbyte c t = .next (p, t') ∧
      c.length = p.length ∧ SamePlace s' t' ∧ s'.TrialReady ∧ t'.TrialReady := by
  induction p generalizing s t with
  | nil => exact ⟨[], s, t, rfl, rfl, rfl, h, hs, ht⟩
  | cons b p ih =>
    obtain ⟨hsend, hs1⟩ := hs.sendCommand (i := .ebyte b) (.inr rfl)
    obtain ⟨hsend', ht1⟩ := ht.sendCommand (i := .dbyte (encryptByte b s)) (.inl rfl)
    obtain ⟨c, s', t', henc, hdec, hlen, hafter⟩ := ih (h.ebyteEffect_dbyteEffect b) hs1 ht1
    have hout : outputByte (ebyteEffect b s) = encryptByte b s := lowByte_ebyteEffect_result b s
    have hout' : outputByte (dbyteEffect (encryptByte b s) t) = b := by
      rw [h.encryptByte_eq b]
      exact (lowByte_dbyteEffect_result _ t).trans (decryptByte_encryptByte b t)
    refine ⟨encryptByte b s :: c, s', t', ?_, ?_, by simp [hlen], hafter⟩
    · exact hout ▸ streamBytes_cons hsend henc
    · rw [streamBytes_cons hsend' hdec, trialEffect, hout']

end Sys2Proof.Machine

open Sys2Proof Sys2Proof.Machine

/-- Settles O41: by induction on the payload, the two trials have the same key byte at every place. -/
theorem decryptingTheEncryptedBytesReturnsThePlaintext : Obligations.DecryptingTheEncryptedBytesReturnsThePlaintext := by
  intro p s t herr hpend ho herr' hpend' ho' htable hmethod hseed hrlast hidx hcka hckb
  have hplace : SamePlace s t := ⟨htable, hmethod, hseed, hrlast, hidx, hcka, hckb⟩
  obtain ⟨c, s', t', henc, hdec, hlen, h, _⟩ := hplace.roundTrip p ⟨ho, herr, hpend⟩ ⟨ho', herr', hpend'⟩
  exact ⟨c, s', t', henc, hdec, hlen, h.cka, h.ckb, h.seed, h.rlast, h.idx⟩

end

section
/-! PROOF. CHECK and SEAL (spec 42): the final draw, and how the corrections of CHECK undo those of SEAL. -/

namespace Sys2Proof.Machine

/-- The final draw's `rf[15:0]` is the high half of the generator state that the draw leaves (40 R131). -/
theorem lowHalf_drawOutput (s : State) : lowHalf (drawOutput s) = highHalf (drawState s).seed := by
  simp [drawOutput, gen]

/-! ### CHECK undoes SEAL -/

theorem expectedA_trailerA (cka : Half) (rf : Word) : expectedA (trailerA cka rf) rf = cka := by
  simp [expectedA, trailerA]

theorem expectedB_trailerB (ckb : Half) (rf : Word) : expectedB (trailerB ckb rf) rf = ckb :=
  BitVec.add_sub_cancel ckb _

/-- The trailer of a sealed trial matches in a trial that stands at the same place. -/
theorem SamePlace.checkEffect_sealEffect {s t : State} (h : SamePlace s t) :
    (checkEffect (highHalf (sealEffect s).result) (lowHalf (sealEffect s).result) t).matchFlag = true := by
  simp [sealEffect, checkEffect, h.drawOutput_eq, h.cka, h.ckb, expectedA_trailerA, expectedB_trailerB]

end Sys2Proof.Machine

open Sys2Proof Sys2Proof.Machine

/-- Settles O44: CHECK's effect holds both corrections and their comparison; one generator step gives the draw and the new
seed the same two halves, in opposite order. -/
theorem checkCorrectsAndComparesBothHalves : Obligations.CheckCorrectsAndComparesBothHalves := by
  intro a b s s' rf herr ho hgen
  have hgen' : gen (currentMethod s) s.seed = (s', rf) := hgen
  have hrf : drawOutput s = rf := congrArg Prod.snd hgen'
  have hseed : (drawState s).seed = s' := congrArg Prod.fst hgen'
  refine ⟨checkEffect a b s, exec_of_trialOpen (by simp [NeedsTrial, Instr.opcode]) ho, hseed, rfl, herr, ?_, ?_, ?_⟩
  · rw [checkEffect, closeTrial_result, hrf]
    rfl
  · simp [checkEffect, hrf, expectedA, expectedB, lowHalf]
  · exact hrf ▸ lowHalf_drawOutput s

end

section
/-! PROOF. The frame parser over a file that the host built (20 R71 to R77). -/

namespace Sys2Proof.Machine

/-! ### Big-endian words -/

theorem bigEndian16_high (w : Word) : bigEndian16 (w.extractLsb' 24 8) (w.extractLsb' 16 8) = highHalf w :=
  BitVec.extractLsb'_append_extractLsb'_eq_extractLsb' (by decide)

theorem bigEndian16_low (w : Word) : bigEndian16 (w.extractLsb' 8 8) (w.extractLsb' 0 8) = lowHalf w :=
  BitVec.extractLsb'_append_extractLsb'_eq_extractLsb' (by decide)

theorem packHalves_highHalf_lowHalf (w : Word) : packHalves (highHalf w) (lowHalf w) = w :=
  BitVec.extractLsb'_append_extractLsb' (w := 16) (len := 16)

theorem length_wordBytes (w : Word) : (wordBytes w).length = 4 := rfl

/-! ### The fields of a built file -/

theorem length_frameFile (preamble : Preamble) (raw : Word) (payload : List Byte) (trailer : Word) :
    (frameFile preamble raw payload trailer).length = payload.length + 33 := by
  simp only [frameFile, List.length_append, Vector.length_toList, length_wordBytes]
  omega

theorem payloadLength_frameFile (preamble : Preamble) (raw : Word) (payload : List Byte) (trailer : Word) :
    payloadLength (frameFile preamble raw payload trailer) = payload.length := by
  rw [payloadLength, length_frameFile, Nat.add_sub_cancel]

/-- The four bytes after the preamble are the raw seed's. -/
theorem fileByte_frameFile_seed (preamble : Preamble) (raw : Word) (payload : List Byte) (trailer : Word) {k : Nat}
    (hk : k < 4) : fileByte (frameFile preamble raw payload trailer) (25 + k) = (wordBytes raw).getD k 0#8 := by
  have hpre : preamble.toList.length = 25 := Vector.length_toList
  rw [frameFile, fileByte, List.append_assoc, List.append_assoc, List.getD_append_right _ _ _ _ (by omega), hpre,
    Nat.add_sub_cancel_left, List.getD_append _ _ _ _ (by simpa [length_wordBytes] using hk)]

/-- The four bytes after the payload are the trailer's. -/
theorem fileByte_frameFile_trailer (preamble : Preamble) (raw : Word) (payload : List Byte) (trailer : Word) (k : Nat) :
    fileByte (frameFile preamble raw payload trailer) (payload.length + (29 + k)) =
      (wordBytes trailer).getD k 0#8 := by
  have hlen : (preamble.toList ++ wordBytes raw ++ payload).length = payload.length + 29 := by
    simp [length_wordBytes, Nat.add_comm]
  rw [frameFile, fileByte, List.getD_append_right _ _ _ _ (by omega), hlen]
  congr 1
  omega

theorem take_frameFile_preamble (preamble : Preamble) (raw : Word) (payload : List Byte) (trailer : Word) :
    (frameFile preamble raw payload trailer).take 25 = preamble.toList := by
  simp [frameFile]

theorem take_drop_frameFile_payload (preamble : Preamble) (raw : Word) (payload : List Byte) (trailer : Word) :
    ((frameFile preamble raw payload trailer).drop 29).take payload.length = payload := by
  have hlen : (preamble.toList ++ wordBytes raw).length = 29 := by simp [length_wordBytes]
  rw [frameFile, List.append_assoc, List.drop_left' hlen, List.take_left]

theorem parseFrame_frameFile (preamble : Preamble) (raw : Word) (payload : List Byte) (trailer : Word) :
    parseFrame preamble (frameFile preamble raw payload trailer) =
      .ok ⟨raw, payload, highHalf trailer, lowHalf trailer⟩ := by
  have hseed {k : Nat} := fileByte_frameFile_seed preamble raw payload trailer (k := k)
  have htrailer := fileByte_frameFile_trailer preamble raw payload trailer
  have hlong : ¬(frameFile preamble raw payload trailer).length < 33 := by rw [length_frameFile]; omega
  rw [parseFrame, if_neg hlong, if_neg (not_not.mpr (take_frameFile_preamble ..)), payloadLength_frameFile,
    take_drop_frameFile_payload, htrailer 0, htrailer 1, htrailer 2, htrailer 3, hseed (k := 0) (by decide),
    hseed (k := 1) (by decide), hseed (k := 2) (by decide), hseed (k := 3) (by decide)]
  simp [wordBytes, bigEndian32, bigEndian16_high, bigEndian16_low, packHalves_highHalf_lowHalf]

end Sys2Proof.Machine
end

section
/-! PROOF. A frame that one trial sealed, run through a later trial (42 R196). -/

namespace Sys2Proof.Machine

/-! ### The two-word commands on the port -/

/-- The state in which the port runs a two-word command: word0 is still in the latch, and PEND is cleared (30 R100). -/
def withWord0 (i : Instr) (s : State) : State := { s with w0 := encodeWord0 i, pend := false }

/-- The port latches the first word and runs the command when the second arrives. -/
theorem sendCommand_of_twoWords {i : Instr} {word1 : Word} {s : State} (htwo : encodeWord1 i = some word1)
    (herr : s.err = false) (hp : s.pend = false) : sendCommand i s = exec i (withWord0 i s) := by
  have h2 : isTwoWord (encodeWord0 i) = true := by rw [(opcodeField_statement i).2, htwo]; rfl
  have hdec : decodeCommand (encodeWord0 i) word1 = .ok i := by simpa [htwo] using decodeCommand_encode i
  simp [sendCommand, encode, htwo, sendWords, acceptWord, herr, hp, h2, executeCommand_of_ok hdec, exec_eq, andThen,
    withWord0]

/-- The latch is no part of a trial. -/
theorem State.TrialReady.withWord0 {s : State} (h : s.TrialReady) (i : Instr) : (withWord0 i s).TrialReady :=
  ⟨h.trialOpen, h.err, rfl⟩

theorem SamePlace.withWord0 {s t : State} (h : SamePlace s t) (i : Instr) : SamePlace s (withWord0 i t) :=
  { h with }

/-! ### The commands of a trial, sent -/

/-- The trial that the host opens with SEEDLD of a method that exists. -/
def startTrial (m : Fin 5) (raw : Word) (s : State) : State :=
  openTrial m raw (withWord0 (.seedld (BitVec.ofNat 3 m.val) raw) s)

theorem startTrial_ready (m : Fin 5) (raw : Word) {s : State} (herr : s.err = false) :
    (startTrial m raw s).TrialReady :=
  ⟨⟨rfl, rfl⟩, herr, rfl⟩

/-- What a trial starts with depends on the method, the raw seed and the table alone. -/
theorem startTrial_samePlace (m : Fin 5) (raw : Word) {s t : State} (h : s.table = t.table) :
    SamePlace (startTrial m raw s) (startTrial m raw t) where
  table := h
  method := rfl
  seed := congrArg (fun table => raw ^^^ (tableEntry table m).seedMask) h
  rlast := rfl
  idx := rfl
  cka := rfl
  ckb := rfl

theorem sendCommand_seedld (m : Fin 5) (raw : Word) {s : State} (herr : s.err = false) (hp : s.pend = false) :
    sendCommand (.seedld (BitVec.ofNat 3 m.val) raw) s = .next (startTrial m raw s) := by
  have hm : (BitVec.ofNat 3 m.val).toNat = m.val := by
    rw [BitVec.toNat_ofNat]
    omega
  rw [sendCommand_of_twoWords rfl herr hp, exec, execSeedld, methodIndex_of_le hm]
  rfl

theorem sendCommand_sealTrial {s : State} (h : s.TrialReady) :
    sendCommand .sealTrial s = .next (sealEffect s) := by
  rw [sendCommand_of_oneWord rfl h.err h.pend, exec_of_trialOpen (by simp [NeedsTrial, Instr.opcode]) h.trialOpen]
  rfl

theorem sendCommand_check {s : State} (h : s.TrialReady) (a b : Half) :
    sendCommand (.check a b) s = .next (checkEffect a b (withWord0 (.check a b) s)) := by
  rw [sendCommand_of_twoWords rfl h.err h.pend,
    exec_of_trialOpen (by simp [NeedsTrial, Instr.opcode]) (h.withWord0 _).trialOpen]
  rfl

/-! ### The host's two procedures -/

theorem sealFile_eq (preamble : Preamble) {m : Fin 5} {raw : Word} {p c : List Byte} {s s' : State}
    (herr : s.err = false) (hp : s.pend = false)
    (hrun : streamBytes .ebyte p (startTrial m raw s) = .next (c, s')) (h : s'.TrialReady) :
    sealFile preamble m raw p s = .next (frameFile preamble raw c (sealEffect s').result, sealEffect s') := by
  simp [sealFile, sendCommand_seedld m raw herr hp, andThen, hrun, sendCommand_sealTrial h, readPort]

/-- The host takes the plaintext when CHECK left MATCH = 1 and ERR = 0. -/
theorem trialOutcome_of_match (p : List Byte) {s : State} (herr : s.err = false) (hm : s.matchFlag = true) :
    trialOutcome p s = .success p := by
  obtain ⟨-, -, hmatchBit, herrBit⟩ := getLsbD_statusLow s
  have h3 : (readPort 0#3 s).getLsbD 3 = false := ((getLsbD_statusWord s 3).trans herrBit).trans herr
  have h2 : (readPort 0#3 s).getLsbD 2 = true := ((getLsbD_statusWord s 2).trans hmatchBit).trans hm
  simp only [trialOutcome, h3, h2, if_true, Bool.false_eq_true, if_false]

/-- A trial whose payload gives `p` and whose CHECK leaves MATCH = 1 succeeds with `p`. -/
theorem runTrial_eq_success {frame : Frame} {m : Fin 5} {p : List Byte} {s s' t : State}
    (herr : s.err = false) (hp : s.pend = false)
    (hrun : streamBytes .dbyte frame.payload (startTrial m frame.rawSeed s) = .next (p, s'))
    (hcheck : sendCommand (.check frame.checksumA frame.checksumB) s' = .next t)
    (hterr : t.err = false) (hm : t.matchFlag = true) :
    runTrial frame m s = .next (.success p, t) := by
  simp [runTrial, sendCommand_seedld m frame.rawSeed herr hp, andThen, hrun, hcheck, trialOutcome_of_match p hterr hm]

/-- The payload and the trailer of one trial, in a trial that starts at the same place: the payload decrypts to the
plaintext, and CHECK finds both checksums. -/
theorem runTrial_of_sealed {m : Fin 5} {raw : Word} {p c : List Byte} {s s' t : State} (htable : s.table = t.table)
    (hs : s.err = false) (ht : t.err = false) (hp : t.pend = false)
    (hrun : streamBytes .ebyte p (startTrial m raw s) = .next (c, s')) :
    ∃ u, runTrial ⟨raw, c, highHalf (sealEffect s').result, lowHalf (sealEffect s').result⟩ m t = .next (.success p, u) ∧
      u.matchFlag = true := by
  obtain ⟨c', s'', t', henc, hdec, -, hplace, -, hready⟩ :=
    (startTrial_samePlace m raw htable).roundTrip p (startTrial_ready m raw hs) (startTrial_ready m raw ht)
  cases hrun.symm.trans henc
  have hmatch := fun i => (hplace.withWord0 i).checkEffect_sealEffect
  exact ⟨_, runTrial_eq_success ht hp hdec (sendCommand_check hready _ _) hready.err (hmatch _), hmatch _⟩

end Sys2Proof.Machine

open Sys2Proof Sys2Proof.Machine

/-- Settles O48: the two trials start at the same place, so DBYTE gives the plaintext back and they end at the same place,
where CHECK's corrections undo SEAL's; the parser gives back what the file was built from. -/
theorem sealedFrameIsAcceptedWithItsPlaintext : Obligations.SealedFrameIsAcceptedWithItsPlaintext := by
  intro preamble p m raw s herr hp
  have hstart := startTrial_ready m raw herr
  obtain ⟨c, t, _, henc, -, hlen, -, hready, -⟩ := (startTrial_samePlace m raw rfl).roundTrip p hstart hstart
  refine ⟨_, _, sealFile_eq preamble herr hp henc hready, fun s' htable herr' hp' => ?_⟩
  obtain ⟨u, hrun, hmatch⟩ := runTrial_of_sealed htable.symm herr herr' hp' henc
  exact ⟨_, u, parseFrame_frameFile .., rfl, hlen, hrun, hmatch⟩

end

section
/-! PROOF. The errors (60 R230 to R243): the one error that a command raises, what the raising step leaves, the error
state, and the interrupt. -/

namespace Sys2Proof.Machine

/-! ### The error of a command -/

/-- The error that the guard of the trial commands raises, if it raises one (10 R40, R41). -/
def trialError (s : State) : Option ErrCode :=
  if !s.seeded then some .notSeeded else if s.done then some .trialClosed else none

/-- The error that a command's own rule raises, if it raises one (60 R231). -/
def instrError (i : Instr) (s : State) : Option ErrCode :=
  match i with
  | .seedld m _ => if m.toNat < 5 then none else some .badMethod
  | .nextDraw | .dbyte _ | .ebyte _ | .check _ _ | .sealTrial => trialError s
  | .nop | .srst | .wctl _ => none

/-- The error that `execute(word0, word1)` raises, if it raises one (30 R102). -/
def commandError (word0 word1 : Word) (s : State) : Option ErrCode :=
  match decodeCommand word0 word1 with
  | .error e => some (encodingErrCode e)
  | .ok i => instrError i s

theorem commandError_of_error {word0 word1 : Word} {e : EncodingError} (h : decodeCommand word0 word1 = .error e)
    (s : State) : commandError word0 word1 s = some (encodingErrCode e) := by
  simp [commandError, h]

theorem commandError_of_ok {word0 word1 : Word} {i : Instr} (h : decodeCommand word0 word1 = .ok i) (s : State) :
    commandError word0 word1 s = instrError i s := by
  simp [commandError, h]

/-! ### What raises each error -/

theorem trialError_eq_notSeeded_iff (s : State) : trialError s = some .notSeeded ↔ s.seeded = false := by
  cases hs : s.seeded <;> simp [trialError, hs]

theorem trialError_eq_trialClosed_iff (s : State) :
    trialError s = some .trialClosed ↔ s.seeded = true ∧ s.done = true := by
  cases hs : s.seeded <;> simp [trialError, hs]

theorem eq_of_trialError_eq_some {s : State} {e : ErrCode} (h : trialError s = some e) :
    e = .notSeeded ∨ e = .trialClosed := by
  cases hs : s.seeded with
  | false => exact .inl (by simpa [trialError, hs, eq_comm] using h)
  | true => exact .inr (by simp_all [trialError])

theorem instrError_of_needsTrial {i : Instr} (h : NeedsTrial i) (s : State) : instrError i s = trialError s := by
  obtain rfl | ⟨b, rfl⟩ | ⟨b, rfl⟩ | ⟨a, b, rfl⟩ | rfl := needsTrial_cases h <;> rfl

/-- The commands whose own rule can raise an error: the trial commands, through their guard, and SEEDLD. -/
theorem instrError_cases {i : Instr} {s : State} {e : ErrCode} (h : instrError i s = some e) :
    (NeedsTrial i ∧ trialError s = some e) ∨ (∃ m raw, i = .seedld m raw ∧ 5 ≤ m.toNat ∧ e = .badMethod) := by
  cases i with
  | nop | srst | wctl _ => simp [instrError] at h
  | nextDraw | dbyte _ | ebyte _ | check _ _ | sealTrial => exact .inl ⟨by simp [NeedsTrial, Instr.opcode], h⟩
  | seedld m raw =>
    by_cases hm : m.toNat < 5
    · simp [instrError, hm] at h
    · exact .inr ⟨m, raw, rfl, by omega, by simpa [instrError, hm, eq_comm] using h⟩

theorem instrError_eq_badMethod_iff (i : Instr) (s : State) :
    instrError i s = some .badMethod ↔ ∃ m raw, i = .seedld m raw ∧ 5 ≤ m.toNat := by
  constructor
  · intro h
    obtain ⟨-, ht⟩ | ⟨m, raw, hi, hm, -⟩ := instrError_cases h
    · simpa using eq_of_trialError_eq_some ht
    · exact ⟨m, raw, hi, hm⟩
  · rintro ⟨m, raw, rfl, hm⟩
    exact if_neg (by omega)

/-- The two errors of the guard. -/
theorem instrError_eq_some_iff_trialError (i : Instr) (s : State) {e : ErrCode} (he : e ≠ .badMethod) :
    instrError i s = some e ↔ NeedsTrial i ∧ trialError s = some e := by
  constructor
  · intro h
    obtain ht | ⟨_, _, _, _, rfl⟩ := instrError_cases h
    · exact ht
    · exact absurd rfl he
  · rintro ⟨hi, ht⟩
    rw [instrError_of_needsTrial hi, ht]

/-- A command's own rule raises no encoding error. -/
theorem ne_encodingErrCode_of_instrError {i : Instr} {s : State} {e : ErrCode} (h : instrError i s = some e)
    (e' : EncodingError) : e ≠ encodingErrCode e' := by
  obtain ⟨-, ht⟩ | ⟨_, _, _, _, rfl⟩ := instrError_cases h
  · obtain rfl | rfl := eq_of_trialError_eq_some ht <;> cases e' <;> decide
  · cases e' <;> decide

/-- An encoding error is raised exactly where the decoder refuses for it. -/
theorem commandError_eq_encodingErrCode_iff (word0 word1 : Word) (s : State) (e : EncodingError) :
    commandError word0 word1 s = some (encodingErrCode e) ↔ decodeCommand word0 word1 = .error e := by
  rcases hd : decodeCommand word0 word1 with e' | i
  · rw [commandError_of_error hd]
    cases e <;> cases e' <;> decide
  · rw [commandError_of_ok hd]
    simpa using fun h => ne_encodingErrCode_of_instrError h e rfl

/-- Any other error is raised by the rule of the decoded command. -/
theorem commandError_eq_some_iff_instrError (word0 word1 : Word) (s : State) {e : ErrCode}
    (hop : e ≠ .illegalOpcode) (hrsv : e ≠ .reservedBits) :
    commandError word0 word1 s = some e ↔
      ∃ i, (decodeCommand word0 word1).toOption = some i ∧ instrError i s = some e := by
  rcases hd : decodeCommand word0 word1 with e' | i
  · have hne : encodingErrCode e' ≠ e := by
      cases e' with
      | illegalOpcode => exact hop.symm
      | reservedBits => exact hrsv.symm
    simp [commandError_of_error hd, Except.toOption, hne]
  · simp [commandError_of_ok hd, Except.toOption]

theorem decodeCommand_eq_illegalOpcode_iff (word0 word1 : Word) :
    decodeCommand word0 word1 = .error .illegalOpcode ↔ opcodeOf (opField word0) = none := by
  obtain ⟨hop, hd⟩ | ⟨op, hop, ⟨-, hd⟩ | ⟨-, hd⟩⟩ := decodeCommand_cases word0 word1 <;> simp [hop, hd]

theorem decodeCommand_eq_reservedBits_iff (word0 word1 : Word) :
    decodeCommand word0 word1 = .error .reservedBits ↔
      ∃ op, opcodeOf (opField word0) = some op ∧ word0 &&& reservedMask op ≠ 0#32 := by
  obtain ⟨hop, hd⟩ | ⟨op, hop, ⟨hr, hd⟩ | ⟨hr, hd⟩⟩ := decodeCommand_cases word0 word1
  · simp [hop, hd]
  · simp [hop, hd, hr]
  · simp [hop, hd, hr]

theorem commandError_ne_some_none (word0 word1 : Word) (s : State) : commandError word0 word1 s ≠ some .none := by
  intro h
  obtain ⟨i, -, hi⟩ := (commandError_eq_some_iff_instrError word0 word1 s (by decide) (by decide)).mp h
  obtain ⟨-, ht⟩ := (instrError_eq_some_iff_trialError i s (by decide)).mp hi
  simpa using eq_of_trialError_eq_some ht

/-! ### What a raising command and a raising step leave -/

/-- A command raises its error, or has none and leaves ERR as it was or cleared. -/
theorem execState_raises_or_keeps_err (i : Instr) (s : State) :
    (∃ e, instrError i s = some e ∧ execState i s = raiseError e s) ∨
    ((execState i s).err = true → s.err = true) := by
  by_cases hi : NeedsTrial i
  · rw [instrError_of_needsTrial hi, execState_of_needsTrial hi]
    obtain ⟨hs, he⟩ | ⟨hs, hd, he⟩ | ⟨-, -, he⟩ := inTrial_cases (trialEffect i) s
    · exact .inl ⟨_, (trialError_eq_notSeeded_iff s).mpr hs, he⟩
    · exact .inl ⟨_, (trialError_eq_trialClosed_iff s).mpr ⟨hs, hd⟩, he⟩
    · exact .inr (by simp [he])
  cases i with
  | nop | wctl _ => exact .inr id
  | srst => exact .inr (by simp [execState])
  | seedld m raw =>
    obtain ⟨hm, hk⟩ | ⟨k, -, hk⟩ := methodIndex_cases m
    · exact .inl ⟨_, (instrError_eq_badMethod_iff _ s).mpr ⟨m, raw, rfl, hm⟩, by simp only [execState, hk]⟩
    · exact .inr (by simp [execState, hk])
  | nextDraw | dbyte _ | ebyte _ | check _ _ | sealTrial => simp [NeedsTrial, Instr.opcode] at hi

/-- A command that ends with ERR = 1 has raised its error, and has written ERR and ERRCODE alone. -/
theorem executeCommand_raises {word0 word1 : Word} {s t : State} (herr : s.err = false)
    (h : executeCommand word0 word1 s = .next t) (ht : t.err = true) :
    ∃ e, commandError word0 word1 s = some e ∧ t = { s with err := true, errcode := e } := by
  rcases hd : decodeCommand word0 word1 with e | i
  · cases (executeCommand_of_error hd s).symm.trans h
    exact ⟨_, commandError_of_error hd s, raiseError_of_no_err herr⟩
  · cases ((executeCommand_of_ok hd s).trans (exec_eq i s)).symm.trans h
    obtain ⟨e, he, hraise⟩ | hkeep := execState_raises_or_keeps_err i s
    · exact ⟨e, (commandError_of_ok hd s).trans he, hraise.trans (raiseError_of_no_err herr)⟩
    · simp [hkeep ht] at herr

/-- Word0 of the command that the word `w` completes: the latched one, if there is one (30 R100). -/
def portWord0 (w : Word) (s : State) : Word := if s.pend then s.w0 else w

/-- Word1 of that command; a one-word command has none, and the port passes 0 (30 R100). -/
def portWord1 (w : Word) (s : State) : Word := if s.pend then w else 0#32

section
variable {s : State} {w : Word} {rest : List PortEvent} (hin : s.input = .word w :: rest) (herr : s.err = false)
include hin herr

/-- A word either completes a command, which the port executes, or is the first of two and is latched. -/
theorem step_completes_or_latches :
    (step s = executeCommand (portWord0 w s) (portWord1 w s) { s with pend := false, input := rest } ∧
      executes s = (decodeCommand (portWord0 w s) (portWord1 w s)).toOption) ∨
    step s = .next { s with w0 := w, pend := true, input := rest } := by
  cases hp : s.pend with
  | true =>
    refine .inl ⟨?_, by simp [executes, hin, herr, hp, portWord0, portWord1]⟩
    simp [step_word_of_pend hin herr hp, portWord0, portWord1, hp]
  | false =>
    cases h2 : isTwoWord w with
    | true => exact .inr (step_word_of_isTwoWord hin herr hp h2)
    | false =>
      refine .inl ⟨?_, by simp [executes, hin, herr, hp, h2, portWord0, portWord1]⟩
      simp [step_word_of_not_isTwoWord hin herr hp h2, portWord0, portWord1, hp]

/-- A raising step takes a word that completes a command, and leaves that command's error in ERR and ERRCODE; of the rest
it changes the port's own state alone. -/
theorem step_raises {t : State} (h : step s = .next t) (ht : t.err = true) :
    ∃ e, commandError (portWord0 w s) (portWord1 w s) s = some e ∧
      executes s = (decodeCommand (portWord0 w s) (portWord1 w s)).toOption ∧
      t = { s with err := true, errcode := e, pend := false, input := rest } := by
  obtain ⟨hstep, hex⟩ | hlatch := step_completes_or_latches hin herr
  · obtain ⟨e, he, rfl⟩ :=
      executeCommand_raises (s := { s with pend := false, input := rest }) herr (hstep.symm.trans h) ht
    exact ⟨e, he, hex, rfl⟩
  · cases hlatch.symm.trans h
    simp [herr] at ht

end

/-! ### The error state -/

theorem stepResets_iff_of_err {s : State} (herr : s.err = true) :
    StepResets s ↔ s.input.head? = some .rst ∨ s.input.head? = some (.word srstWord) := by
  rcases hin : s.input with _ | ⟨w | _, rest⟩ <;> simp [StepResets, executes, hin, herr]

/-- In the error state a step leaves ERR = 1, unless it resets. -/
theorem step_err_eq_false_iff_stepResets {s t : State} (herr : s.err = true) (h : step s = .next t) :
    t.err = false ↔ StepResets s := by
  constructor
  · intro ht
    by_contra hnr
    simp [(step_keeps_error h herr hnr).1] at ht
  · intro hr
    obtain ⟨u, rfl⟩ := step_of_stepResets h hr
    rfl

/-- In the error state a step that takes no rst and no SRST word discards what it takes, and changes nothing else. -/
theorem step_discards {s : State} (herr : s.err = true)
    (hin : ∀ e ∈ s.input, e ≠ .rst ∧ e ≠ .word srstWord) : step s = .next { s with input := s.input.tail } := by
  rcases h : s.input with _ | ⟨w | _, rest⟩
  · exact (step_idle h).trans (by rw [List.tail_nil, ← h])
  · have hw : w ≠ srstWord := fun hw => (hin (.word w) (by simp [h])).2 (congrArg _ hw)
    exact step_word_of_err_ne h herr hw
  · exact absurd rfl (hin .rst (by simp [h])).1

theorem run_succ_of_step {s t : State} (h : step s = .next t) (n : Nat) : core.run (n + 1) s = core.run n t := by
  have hcore : core.step s = .next t := h
  simp only [Host.Core.run, hcore]

theorem run_discards (n : Nat) {s : State} (herr : s.err = true)
    (hin : ∀ e ∈ s.input, e ≠ .rst ∧ e ≠ .word srstWord) :
    core.run n s = .next { s with input := s.input.drop n } := by
  induction n generalizing s with
  | zero => rfl
  | succ n ih =>
    rw [run_succ_of_step (step_discards herr hin),
      ih (s := { s with input := s.input.tail }) herr fun e he => hin e (List.mem_of_mem_tail he),
      List.drop_tail]

/-! ### The interrupt -/

theorem irq_of_no_cause {s : State} (hd : s.done = false) (herr : s.err = false) : irq s = false := by
  simp [irq, hd, herr]

theorem irq_of_disabled {s : State} (h : s.ctrl = 0#2) : irq s = false := by
  simp [irq, ieDone, ieErr, h]

theorem encodeWord0_wctl_ne_srstWord (e : BitVec 2) : encodeWord0 (.wctl e) ≠ srstWord := by
  revert e
  decide

end Sys2Proof.Machine

open Sys2Proof Sys2Proof.Machine

/-- Settles O52: only a word that completes a command raises, and its step is `raise` in the state that the port leaves. -/
theorem errorsChangeOnlyTheErrorFields : Obligations.ErrorsChangeOnlyTheErrorFields := by
  intro s t h herr ht
  rcases hin : s.input with _ | ⟨w | _, rest⟩
  · cases (step_idle hin).symm.trans h
    simp [herr] at ht
  · obtain ⟨e, he, -, rfl⟩ := step_raises hin herr h ht
    exact ⟨rfl, fun hnone => commandError_ne_some_none _ _ s (he.trans (congrArg some hnone))⟩
  · cases (step_rst hin).symm.trans h
    simp at ht

/-- Settles O54: a raising step leaves the error of its command, so each code's cause is that of the command's error. -/
theorem eachErrorCodeHasItsCause : Obligations.EachErrorCodeHasItsCause := by
  refine ⟨⟨rfl, fun e => by cases e <;> decide⟩, ?_⟩
  rintro s t w _ rest h herr ht hin rfl
  obtain ⟨e, he, hex, rfl⟩ := step_raises hin herr h ht
  have hcode (c : ErrCode) : e = c ↔ commandError (portWord0 w s) (portWord1 w s) s = some c := by simp [he]
  have hrule {c : ErrCode} (hop : c ≠ .illegalOpcode) (hrsv : c ≠ .reservedBits) :
      e = c ↔ ∃ i, executes s = some i ∧ instrError i s = some c := by
    rw [hcode, commandError_eq_some_iff_instrError _ _ _ hop hrsv, hex]
  have hguard {c : ErrCode} (hop : c ≠ .illegalOpcode) (hrsv : c ≠ .reservedBits) (hm : c ≠ .badMethod) :
      e = c ↔ (∃ i, executes s = some i ∧ NeedsTrial i) ∧ trialError s = some c := by
    simp only [hrule hop hrsv, instrError_eq_some_iff_trialError _ _ hm, ← and_assoc, exists_and_right]
  refine ⟨?_, ?_, ?_, ?_, ?_, rfl⟩
  · exact (hcode _).trans <| (commandError_eq_encodingErrCode_iff _ _ s .illegalOpcode).trans <|
      (decodeCommand_eq_illegalOpcode_iff _ _).trans (opcodeOf_eq_none_iff _)
  · exact (hcode _).trans <| (commandError_eq_encodingErrCode_iff _ _ s .reservedBits).trans
      (decodeCommand_eq_reservedBits_iff _ _)
  · refine (hrule (by decide) (by decide)).trans ?_
    simp only [instrError_eq_badMethod_iff]
    exact ⟨fun ⟨_, hi, m, raw, hm⟩ => ⟨m, raw, hm.1 ▸ hi, hm.2⟩, fun ⟨m, raw, hi, hm⟩ => ⟨_, hi, m, raw, rfl, hm⟩⟩
  · exact (hguard (by decide) (by decide) (by decide)).trans (and_congr_right' (trialError_eq_notSeeded_iff s))
  · exact (hguard (by decide) (by decide) (by decide)).trans (and_congr_right' (trialError_eq_trialClosed_iff s))

/-- Settles O53: by induction on the number of steps, each of which discards a word or waits; of all steps in the error
state only a reset clears ERR. -/
theorem errorStateDiscardsEveryWord : Obligations.ErrorStateDiscardsEveryWord :=
  ⟨fun n _ => run_discards n, fun _ _ herr h =>
    (step_err_eq_false_iff_stepResets herr h).trans (stepResets_iff_of_err herr)⟩

/-- Settles O27: irq has no register of its own, so it is low wherever the enables or both causes are 0. -/
theorem interruptIsTheLevelOfItsCauses : Obligations.InterruptIsTheLevelOfItsCauses := by
  refine ⟨fun s => ⟨rfl, ?_⟩, fun s t h => ?_, fun m raw s t hm herr h => ?_, fun s t h hr => ?_,
    fun e s rest herr hin => ?_⟩
  · obtain ⟨-, -, hirq⟩ := getLsbD_statusHigh s
    exact (getLsbD_statusWord s 13).trans hirq
  · cases h
    exact irq_of_disabled rfl
  · obtain ⟨k, -, hk⟩ := exec_seedld_of_le hm raw s
    cases hk.symm.trans h
    exact irq_of_no_cause rfl herr
  · obtain ⟨u, rfl⟩ := step_of_stepResets h hr
    exact irq_of_no_cause rfl rfl
  · exact step_word_of_err_ne hin herr (encodeWord0_wctl_ne_srstWord e)

end

section
/-! PROOF. The block right after a reset (70 R272), and the host's way back to it (70 R285). -/

namespace Sys2Proof.Machine

/-! ### What the reset values say of the flags -/

namespace State.ResetValues
variable {s : State}

/-- The flags are bits of STATUS, which reads 0. -/
theorem flags_eq_false (h : s.ResetValues) : s.seeded = false ∧ s.err = false := by
  obtain ⟨hseeded, -, -, herr, -⟩ := statusReadsItsFieldsAtTheirBits.1 s
  rw [h.status] at hseeded herr
  exact ⟨hseeded.symm, herr.symm⟩

/-- Reading CTRL widens its two bits, so they can be read back. -/
theorem ctrl_eq_zero (h : s.ResetValues) : s.ctrl = 0#2 := by
  have hctrl : s.ctrl.setWidth 32 = 0#32 := h.ctrl
  simpa using congrArg (BitVec.setWidth 2) hctrl

end State.ResetValues

/-! ### What a command raises and opens while no trial is open -/

/-- SEEDLD of a method that exists raises nothing, nor does any command outside the trial. -/
theorem instrError_eq_none {i : Instr} (hi : ¬NeedsTrial i) (hm : ∀ m raw, i = .seedld m raw → m.toNat ≤ 4)
    (s : State) : instrError i s = none := by
  refine Option.eq_none_iff_forall_ne_some.mpr fun e he => ?_
  obtain ⟨hn, -⟩ | ⟨m, raw, rfl, hge, -⟩ := instrError_cases he
  · exact hi hn
  · have hle := hm m raw rfl
    omega

/-- A command that has no error to raise leaves ERR = 0. -/
theorem execState_err_of_instrError_eq_none {i : Instr} {s : State} (hi : instrError i s = none)
    (herr : s.err = false) : (execState i s).err = false := by
  obtain ⟨e, he, -⟩ | hkeep := execState_raises_or_keeps_err i s
  · simp [hi] at he
  · exact Bool.eq_false_iff.mpr fun ht => by simp [hkeep ht] at herr

/-- Of all commands only SEEDLD sets SEEDED. -/
theorem CommandEffect.seeded_eq_false {i : Instr} {s t : State} (h : CommandEffect i s t) (hi : i.opcode ≠ .seedld)
    (hs : s.seeded = false) : t.seeded = false := by
  cases h with
  | resets => rfl
  | opens m raw k h => exact absurd (congrArg Instr.opcode h) hi
  | runs _ ho => simp [ho.1] at hs
  | raises e => simpa using hs
  | enables e | keeps => exact hs

/-! ### Back to the reset values -/

/-- STATUS reads none of the fields that a reset leaves free, so it reads what it reads in `State.reset`. -/
theorem readPort_status_resetBlock (s : State) : readPort 0#3 (resetBlock s) = 0#32 :=
  calc readPort 0#3 (resetBlock s) = readPort 0#3 State.reset := rfl
    _ = 0#32 := statusReadsItsFieldsAtTheirBits.2

/-- What both resets leave is at the values of 10 R55. -/
theorem resetBlock_resetValues (s : State) : (resetBlock s).ResetValues :=
  ⟨rfl, rfl, rfl, rfl, rfl, rfl, rfl, readPort_status_resetBlock s, rfl, rfl, rfl⟩

/-- STATUS.PEND is the port's own PEND (10 R44). -/
theorem readPort_status_pend (s : State) : (readPort 0#3 s).getLsbD 11 = s.pend := by
  obtain ⟨-, -, -, -, -, -, hpend, -⟩ := statusReadsItsFieldsAtTheirBits.1 s
  exact hpend

/-- With PEND = 1 and ERR = 0 a word is word1 of the latched word0, whatever it is (30 R100). -/
theorem acceptWord_of_pend (w : Word) {s : State} (herr : s.err = false) (hp : s.pend = true) :
    acceptWord w s = executeCommand s.w0 w { s with pend := false } := by
  simp [acceptWord, herr, hp]

/-- The port executes the SRST word in the error state, and where nothing is latched. -/
theorem acceptWord_srstWord {s : State} (h : s.err = true ∨ s.pend = false) :
    acceptWord srstWord s = .next (resetBlock s) := by
  cases herr : s.err with
  | true => simp [acceptWord, herr, exec_eq, execState]
  | false =>
    have hp : s.pend = false := by simpa [herr] using h
    simp [acceptWord, herr, hp, isTwoWord_srstWord, executeCommand_of_ok decode_srstWord, exec_eq, execState]

/-- After a filler word on a pending port the SRST word is executed: the filler completes the latched command, or is
discarded in the error state, or is itself the SRST word there. -/
theorem acceptWord_filler (filler : Word) {s : State} (hp : s.pend = true) :
    ∃ t, acceptWord filler s = .next t ∧ (t.err = true ∨ t.pend = false) := by
  cases herr : s.err with
  | false =>
    obtain ⟨t, ht, hpend, -⟩ := executeCommand_port s.w0 filler (s := { s with pend := false }) rfl
    exact ⟨t, (acceptWord_of_pend filler herr hp).trans ht, .inr hpend⟩
  | true =>
    by_cases hw : filler = srstWord
    · exact ⟨_, hw ▸ acceptWord_srstWord (.inl herr), .inr rfl⟩
    · exact ⟨s, by simp [acceptWord, herr, hw], .inl herr⟩

/-- The host's recovery ends in a reset, from every state. -/
theorem sendWords_recoverWords (filler : Word) (s : State) :
    ∃ u, sendWords (recoverWords filler s) s = .next (resetBlock u) := by
  cases hp : s.pend with
  | true =>
    obtain ⟨t, ht, hready⟩ := acceptWord_filler filler hp
    exact ⟨t, by simp only [recoverWords, readPort_status_pend, hp, if_true, sendWords, ht, andThen,
      acceptWord_srstWord hready]⟩
  | false =>
    exact ⟨s, by simp only [recoverWords, readPort_status_pend, hp, Bool.false_eq_true, if_false, sendWords, andThen,
      acceptWord_srstWord (.inr hp)]⟩

end Sys2Proof.Machine

open Sys2Proof Sys2Proof.Machine

/-- Settles O16: the reset values hold SEEDED = ERR = 0, and from there only the trial commands and SEEDLD of a
missing method have an error to raise, and only SEEDLD opens a trial. -/
theorem afterResetOnlyUnseededCommandsAreLegal : Obligations.AfterResetOnlyUnseededCommandsAreLegal := by
  intro s h
  obtain ⟨hseeded, herr⟩ := h.flags_eq_false
  refine ⟨h.irq_low, h.ctrl_eq_zero, fun ho => by simp [ho.1] at hseeded, fun i hi => ?_, fun i hi hm => ?_,
    fun i t ht hi => ?_, fun m raw hm => ?_⟩
  · rw [exec_of_unseeded hi hseeded, raiseError_of_no_err herr]
  · exact ⟨_, exec_eq i s, execState_err_of_instrError_eq_none (instrError_eq_none hi hm s) herr⟩
  · exact exec_next_iff.mp ht ▸ (execState_effect i s).seeded_eq_false hi hseeded
  · obtain ⟨k, -, hk⟩ := exec_seedld_of_le hm raw s
    exact ⟨_, hk, rfl, rfl⟩

/-- Settles O55: the filler word brings the port to where it executes the SRST word, and both resets leave the reset
values. -/
theorem fillerThenSoftResetRecovers : Obligations.FillerThenSoftResetRecovers := by
  refine ⟨fun s => acceptWord_of_pend srstWord, fun filler s => ⟨fun hp => if_pos hp, ?_⟩,
    fun s => ⟨_, rfl, resetBlock_resetValues s⟩⟩
  obtain ⟨u, hu⟩ := sendWords_recoverWords filler s
  exact ⟨_, hu, resetBlock_resetValues u⟩

end

section
/-! PROOF. The round trip of the encoding (30 sections 1 to 3): what decodes is the encoding of what it decodes to. -/

namespace Sys2Proof

/-! ### The decoder over a list of words -/

/-- Every way in which words begin with an instruction: it takes one word or two, as word0's OP says (30 R99). -/
theorem decode_eq_ok_cases {ws rest : List Word} {i : Instr} (h : decode ws = .ok (i, rest)) :
    (∃ word0, isTwoWord word0 = false ∧ ws = word0 :: rest ∧ decodeCommand word0 0#32 = .ok i) ∨
    ∃ word0 word1, isTwoWord word0 = true ∧ ws = word0 :: word1 :: rest ∧ decodeCommand word0 word1 = .ok i := by
  have hthen {word0 word1 : Word} {rest' : List Word} (h : decodeThen word0 word1 rest' = .ok (i, rest)) :
      decodeCommand word0 word1 = .ok i ∧ rest' = rest := by
    rcases hd : decodeCommand word0 word1 with e | j <;> simp_all [decodeThen]
  match ws with
  | [] => simp [decode] at h
  | word0 :: tail =>
    cases h2 : isTwoWord word0 with
    | false =>
      obtain ⟨hd, rfl⟩ := hthen (by simpa [decode, h2] using h)
      exact .inl ⟨word0, h2, rfl, hd⟩
    | true =>
      match tail with
      | [] => simp [decode, h2] at h
      | word1 :: tail' =>
        obtain ⟨hd, rfl⟩ := hthen (by simpa [decode, h2] using h)
        exact .inr ⟨word0, word1, h2, rfl, hd⟩

/-! ### The words of an instruction -/

theorem decodes_of_oneWord {i : Instr} (h : encodeWord1 i = none) :
    isTwoWord (encodeWord0 i) = false ∧ decodeCommand (encodeWord0 i) 0#32 = .ok i :=
  ⟨by rw [(opcodeField_statement i).2, h]; rfl, by simpa [h] using decodeCommand_encode i⟩

theorem decodes_of_twoWords {i : Instr} {word1 : Word} (h : encodeWord1 i = some word1) :
    isTwoWord (encodeWord0 i) = true ∧ decodeCommand (encodeWord0 i) word1 = .ok i :=
  ⟨by rw [(opcodeField_statement i).2, h]; rfl, by simpa [h] using decodeCommand_encode i⟩

/-! ### The encoder against the opcode map -/

/-- Widening a cut of the low bits is masking them. -/
theorem setWidth_extractLsb'_zero (w : Word) (n : Nat) :
    (w.extractLsb' 0 n).setWidth 32 = w &&& BitVec.ofNat 32 (2 ^ n - 1) := by
  apply BitVec.eq_of_getLsbD_eq
  intro i hi
  simp [hi, BitVec.getLsbD_ofNat, Bool.and_comm, -BitVec.getLsbD_eq_getElem]

/-- The encoder puts the match column where the mask column is, and the operands of word0 where it is not. -/
theorem encodeWord0_operandsOf (op : Opcode) (word0 word1 : Word) :
    encodeWord0 (operandsOf op word0 word1) = (opcodeRow op).matchBits ||| word0 &&& ~~~(opcodeRow op).mask := by
  cases op with
  | seedld | dbyte | ebyte | wctl => exact congrArg (_ ||| ·) (setWidth_extractLsb'_zero word0 _)
  | nop | srst | nextDraw | check | sealTrial => simp [encodeWord0, operandsOf, opcodeRow]

/-- A word that selects a row is the word0 of the instruction that the row's fields make of it. -/
theorem encodeWord0_operandsOf_of_selectsRow {op : Opcode} {word0 : Word} (h : selectsRow op word0 = true)
    (word1 : Word) : encodeWord0 (operandsOf op word0 word1) = word0 := by
  have hmatch : word0 &&& (opcodeRow op).mask = (opcodeRow op).matchBits := by
    simpa [selectsRow, (opcodeRow_matchBits op).2] using h
  rw [encodeWord0_operandsOf, ← hmatch, ← BitVec.and_or_distrib_left, BitVec.or_not_self, BitVec.and_allOnes]

/-- An instruction's word1, where it has one, is the word that its fields were cut from. -/
theorem encodeWord1_operandsOf (op : Opcode) (word0 word1 : Word) :
    encodeWord1 (operandsOf op word0 word1) = none ∨ encodeWord1 (operandsOf op word0 word1) = some word1 := by
  cases op with
  | seedld => exact .inr rfl
  | check => exact .inr (congrArg some (Machine.packHalves_highHalf_lowHalf word1))
  | nop | srst | nextDraw | dbyte | ebyte | sealTrial | wctl => exact .inl rfl

/-- A command that decodes is the encoding of its instruction. -/
theorem encode_of_decodeCommand {word0 word1 : Word} {i : Instr} (h : decodeCommand word0 word1 = .ok i) :
    encodeWord0 i = word0 ∧ encodeWord1 i = if isTwoWord word0 then some word1 else none := by
  obtain ⟨hop, hr, hi⟩ := decodeCommand_eq_ok_iff.mp h
  have h0 : encodeWord0 i = word0 := by
    rw [hi]
    exact encodeWord0_operandsOf_of_selectsRow ((selectsRow_iff _ _).mpr ⟨hop, hr⟩) word1
  have hlen : isTwoWord word0 = (encodeWord1 i).isSome := h0 ▸ (opcodeField_statement i).2
  have h1 : encodeWord1 i = none ∨ encodeWord1 i = some word1 := by
    rw [hi]
    exact encodeWord1_operandsOf _ word0 word1
  refine ⟨h0, ?_⟩
  obtain h1 | h1 := h1 <;> simp [hlen, h1]

/-! ### Well-formed commands -/

/-- How many low bits of word0 are no reserved bits and no OP (30 R91). -/
def operandWidth : Opcode → Nat
  | .nop | .srst | .nextDraw | .check | .sealTrial => 0
  | .seedld => 3
  | .dbyte | .ebyte => 8
  | .wctl => 2

theorem operandBits_eq {c : Command} {op : Opcode} (h : opcodeOf (opField c.word0) = some op) :
    c.operandBits = operandWidth op := by
  have ho := (opcodeOf_eq_some_iff _ _).mp h
  rw [opField] at ho
  rw [Command.operandBits, ho]
  cases op <;> rfl

/-- The reserved bits are those between the operands and OP (30 R103). -/
theorem getLsbD_reservedMask (op : Opcode) {k : Nat} (hk : k < 32) :
    (reservedMask op).getLsbD k = (decide (operandWidth op ≤ k) && decide (k < 28)) := by
  revert k
  cases op <;> decide

/-- The reserved bits are clear exactly when the 28 bits below OP hold an operand and nothing more. -/
theorem and_reservedMask_eq_zero_iff_lt (op : Opcode) (word0 : Word) :
    word0 &&& reservedMask op = 0#32 ↔ word0.toNat % 2 ^ 28 < 2 ^ operandWidth op := by
  constructor
  · intro h
    refine Nat.lt_pow_two_of_testBit _ fun k hk => ?_
    rw [Nat.testBit_mod_two_pow]
    by_cases hk28 : k < 28
    · have hbit := congrArg (BitVec.getLsbD · k) h
      simp only [BitVec.getLsbD_and, getLsbD_reservedMask op (by omega : k < 32), hk, hk28] at hbit
      simpa [hk28, ← BitVec.testBit_toNat] using hbit
    · simp [hk28]
  · intro h
    apply BitVec.eq_of_getLsbD_eq
    intro k hk
    rw [BitVec.getLsbD_and, getLsbD_reservedMask op hk, BitVec.getLsbD_zero]
    by_cases hres : operandWidth op ≤ k ∧ k < 28
    · have hbit := Nat.testBit_lt_two_pow (h.trans_le (Nat.pow_le_pow_right Nat.two_pos hres.1))
      rw [Nat.testBit_mod_two_pow, BitVec.testBit_toNat] at hbit
      simpa [hres] using hbit
    · rw [← Bool.decide_and, decide_eq_false hres, Bool.and_false]

theorem opcodeDefined_iff (c : Command) : c.opcodeDefined = true ↔ ∃ op, opcodeOf (opField c.word0) = some op := by
  rw [← Option.ne_none_iff_exists', Ne, opcodeOf_eq_none_iff, Command.opcodeDefined, decide_eq_true_eq, opField]
  omega

/-- The three checks ask for what the decoder asks for, and for the number of words that OP asks for. -/
theorem wellFormed_iff (c : Command) :
    c.wellFormed = true ↔
      (∃ i, decodeCommand c.word0 (c.word1.getD 0#32) = .ok i) ∧ c.word1.isSome = isTwoWord c.word0 := by
  have hlength : c.lengthRight = true ↔ c.word1.isSome = isTwoWord c.word0 := beq_iff_eq
  have hreserved {op : Opcode} (hop : opcodeOf (opField c.word0) = some op) :
      c.reservedClear = true ↔ c.word0 &&& reservedMask op = 0#32 := by
    rw [and_reservedMask_eq_zero_iff_lt, Command.reservedClear, operandBits_eq hop, decide_eq_true_eq]
  rw [Command.wellFormed, Bool.and_eq_true, Bool.and_eq_true, hlength, opcodeDefined_iff]
  refine and_congr_left' ⟨fun ⟨⟨op, hop⟩, hr⟩ => ⟨_, decodeCommand_ok hop ((hreserved hop).mp hr)⟩, fun ⟨i, hd⟩ => ?_⟩
  obtain ⟨hop, hr, -⟩ := decodeCommand_eq_ok_iff.mp hd
  exact ⟨⟨_, hop⟩, (hreserved hop).mpr hr⟩

end Sys2Proof

open Sys2Proof Sys2Proof.Machine

/-- Settles O2: the decoder takes as many words as the encoder gives, and each command decodes to its instruction. -/
theorem decodingAnEncodedInstructionReturnsIt : Obligations.DecodingAnEncodedInstructionReturnsIt := by
  intro i rest
  rcases h1 : encodeWord1 i with _ | word1
  · obtain ⟨h2, hd⟩ := decodes_of_oneWord h1
    simp [encode, h1, decode, h2, decodeThen, hd]
  · obtain ⟨h2, hd⟩ := decodes_of_twoWords h1
    simp [encode, h1, decode, h2, decodeThen, hd]

/-- Settles O3: the words that the decoder took are those that the encoder gives. -/
theorem decodedWordsAreTheInstructionsEncoding : Obligations.DecodedWordsAreTheInstructionsEncoding := by
  intro ws rest i h
  obtain ⟨word0, h2, rfl, hd⟩ | ⟨word0, word1, h2, rfl, hd⟩ := decode_eq_ok_cases h <;>
    obtain ⟨h0, h1⟩ := encode_of_decodeCommand hd <;> simp [encode, h0, h1, h2]

/-- Settles O4: both ask for a known OP, clear reserved bits and as many words as OP says, and no more is needed for the
command to be the encoding of what it decodes to. -/
theorem wellFormedCommandsAreTheEncodings : Obligations.WellFormedCommandsAreTheEncodings := by
  intro c
  rw [wellFormed_iff]
  constructor
  · rintro ⟨⟨i, hd⟩, hlen⟩
    obtain ⟨h0, h1⟩ := encode_of_decodeCommand hd
    refine ⟨i, ?_⟩
    rw [encodeCommand, h0, h1, ← hlen]
    obtain ⟨word0, _ | word1⟩ := c <;> rfl
  · rintro ⟨i, rfl⟩
    exact ⟨⟨i, decodeCommand_encode i⟩, (opcodeField_statement i).2.symm⟩

end

section
/-! PROOF. The step and both resets: what a presented instruction runs in, and that every step answers (30 section 3,
60, 70 section 1). -/

namespace Sys2Proof.Machine

/-! ### Every step answers -/

theorem executeCommand_answers (word0 word1 : Word) (s : State) : ∃ t, executeCommand word0 word1 s = .next t := by
  rcases hd : decodeCommand word0 word1 with e | i
  · exact ⟨_, executeCommand_of_error hd s⟩
  · exact ⟨_, (executeCommand_of_ok hd s).trans (exec_eq i s)⟩

theorem acceptWord_answers (w : Word) (s : State) : ∃ t, acceptWord w s = .next t := by
  unfold acceptWord
  split_ifs
  · exact ⟨_, exec_eq .srst s⟩
  · exact ⟨_, rfl⟩
  · exact executeCommand_answers _ _ _
  · exact ⟨_, rfl⟩
  · exact executeCommand_answers _ _ _

theorem step_answers (s : State) : ∃ t, step s = .next t := by
  rcases hin : s.input with _ | ⟨w | _, rest⟩
  · exact ⟨_, step_idle hin⟩
  · exact step_word hin ▸ acceptWord_answers w _
  · exact ⟨_, step_rst hin⟩

/-- A run of one step is the step. -/
theorem run_one (s : State) : core.run 1 s = step s := by
  obtain ⟨t, ht⟩ := step_answers s
  rw [run_succ_of_step ht, ht]
  rfl

/-! ### A presented instruction -/

section
variable {s : State} {w : Word} {rest : List PortEvent} {i : Instr} (herr : s.err = false)
  (hin : s.input = .word w :: rest)
include herr hin

theorem step_runs_oneWord (hp : s.pend = false) (h2 : isTwoWord w = false) (hd : decodeCommand w 0#32 = .ok i) :
    step s = exec i { s with input := rest } :=
  (step_word_of_not_isTwoWord hin herr hp h2).trans (executeCommand_of_ok hd _)

theorem step_runs_latched (hp : s.pend = true) (hd : decodeCommand s.w0 w = .ok i) :
    step s = exec i { s with input := rest, pend := false } :=
  (step_word_of_pend hin herr hp).trans (executeCommand_of_ok hd _)

end

end Sys2Proof.Machine

open Sys2Proof Sys2Proof.Machine

/-- Settles O17: `State.reset` is the reset state of its own table and W0. -/
theorem invariantsHoldAtReset : Obligations.InvariantsHoldAtReset :=
  reset_inv State.reset.table State.reset.w0

/-- Settles O18: each kind of step keeps the invariants. -/
theorem everyStepKeepsTheInvariants : Obligations.EveryStepKeepsTheInvariants := fun _ _ => State.Inv.step

/-- Settles O7: the port executes the command that the word completes, and a decoded one runs its own rule. -/
theorem stepRunsTheDecodedInstruction : Obligations.StepRunsTheDecodedInstruction := fun _ _ _ _ herr hin =>
  ⟨step_runs_oneWord herr hin, step_runs_latched herr hin⟩

/-- Settles O8: a one-word command runs in its own step; of two words the first step latches word0. -/
theorem presentedInstructionRunsInItsWordCount : Obligations.PresentedInstructionRunsInItsWordCount := by
  intro s i rest herr hp hin
  rcases h1 : encodeWord1 i with _ | word1
  · obtain ⟨h2, hd⟩ := decodes_of_oneWord h1
    have hword : encode i = [encodeWord0 i] := by simp [encode, h1]
    rw [h2, hword]
    exact (run_one s).trans (step_runs_oneWord herr (by rw [hin, hword]; rfl) hp h2 hd)
  · obtain ⟨h2, hd⟩ := decodes_of_twoWords h1
    have hwords : encode i = [encodeWord0 i, word1] := by simp [encode, h1]
    have hlatch := step_word_of_isTwoWord (by rw [hin, hwords]; rfl) herr hp h2
    have hrun := step_runs_latched (s := { s with w0 := encodeWord0 i, pend := true, input := .word word1 :: rest })
      herr rfl rfl hd
    rw [h2, hwords]
    exact (run_succ_of_step hlatch 1).trans <| (run_one _).trans <| hrun.trans (by rw [← hp]; rfl)

/-- Settles O9: the two words of the table either decode as one command of one word, which is placed on the port, or as
one of two, whose word0 is placed in the latch. -/
theorem placedTableWordRunsNext : Obligations.PlacedTableWordRunsNext := by
  intro s nbits w i herr h
  obtain ⟨rest, hdec⟩ : ∃ rest, decode [tableWord nbits w 0, tableWord nbits w 1] = .ok (i, rest) := by
    rcases hd : decode [tableWord nbits w 0, tableWord nbits w 1] with e | ⟨j, rest⟩
    · simp [decodeTableWord, hd] at h
    · exact ⟨rest, by simpa [decodeTableWord, hd] using h⟩
  obtain ⟨word0, h2, hws, hd⟩ | ⟨word0, word1, h2, hws, hd⟩ := decode_eq_ok_cases hdec
  · obtain ⟨rfl, -⟩ := List.cons.inj hws
    simp only [State.withFetchWord, placeCommand, h2, Bool.false_eq_true, if_false]
    exact step_runs_oneWord herr rfl rfl h2 hd
  · obtain ⟨rfl, htail⟩ := List.cons.inj hws
    obtain ⟨rfl, -⟩ := List.cons.inj htail
    simp only [State.withFetchWord, placeCommand, h2, if_true]
    exact step_runs_latched herr rfl rfl hd

/-- Settles O13: with no event to take, the step answers the state it found. -/
theorem blockWaitsWithNothingPresented : Obligations.BlockWaitsWithNothingPresented := fun _ => step_idle

/-- Settles O14: each branch of the port answers, and so does each command's own rule. -/
theorem everyStepAnswersANextState : Obligations.EveryStepAnswersANextState :=
  ⟨step_answers, fun i s => ⟨_, exec_eq i s⟩⟩

/-- Settles O15: rst and an executed SRST are both `resetBlock`, which leaves the reset values. -/
theorem bothResetsLeaveTheResetValues : Obligations.BothResetsLeaveTheResetValues := by
  refine ⟨⟨rfl, rfl, rfl, rfl, rfl, rfl, rfl, statusReadsItsFieldsAtTheirBits.2, rfl, rfl, rfl⟩,
    fun s => ⟨_, exec_eq .srst s, rfl, resetBlock_resetValues s, rfl, rfl⟩,
    fun s rest hin => ⟨_, step_rst hin, resetBlock_resetValues _⟩,
    fun s rest hin => ⟨fun h => ?_, step_word_of_pend hin⟩, fun s _ => step_idle⟩
  exact ⟨_, (step_word hin).trans (acceptWord_srstWord h), resetBlock_resetValues _⟩

/-- Settles O51: `resetBlock` gives every register but W0 the value that `State.reset` has. -/
theorem srstResetsEveryRegister : Obligations.SrstResetsEveryRegister := fun s => ⟨_, exec_eq .srst s, rfl⟩

end

section
/-! PROOF. The latch W0 is hidden while PEND = 0 (10 section 3): no command reads it. -/

namespace Sys2Proof.Machine

/-! ### Commands carry W0 along -/

theorem raiseError_setW0 (e : ErrCode) (v : Word) (s : State) :
    raiseError e { s with w0 := v } = { raiseError e s with w0 := v } := by
  cases herr : s.err <;> simp [raiseError, herr]

theorem stepKey_setW0 (v : Word) (s : State) : stepKey { s with w0 := v } = { stepKey s with w0 := v } := by
  cases hph : phase s with
  | false => rw [stepKey_even hph, stepKey_even (s := { s with w0 := v }) hph]; rfl
  | true => rw [stepKey_odd hph, stepKey_odd (s := { s with w0 := v }) hph]

theorem trialEffect_setW0 (i : Instr) (v : Word) (s : State) :
    trialEffect i { s with w0 := v } = { trialEffect i s with w0 := v } := by
  cases i with
  | dbyte b => exact congrArg (fun u => finishByte _ (accumulate _ u)) (stepKey_setW0 v s)
  | ebyte b => exact congrArg (fun u => finishByte _ (accumulate _ u)) (stepKey_setW0 v s)
  | nop | srst | seedld | nextDraw | check | sealTrial | wctl => rfl

theorem inTrial_setW0 {f : State → State} {v : Word} {s : State}
    (hf : f { s with w0 := v } = { f s with w0 := v }) :
    inTrial f { s with w0 := v } = { inTrial f s with w0 := v } := by
  obtain ⟨hs, h⟩ | ⟨hs, hd, h⟩ | ⟨hs, hd, h⟩ := inTrial_cases f s <;> rw [h]
  · rw [inTrial_unseeded (s := { s with w0 := v }) hs, raiseError_setW0]
  · rw [inTrial_done (s := { s with w0 := v }) hs hd, raiseError_setW0]
  · rw [inTrial_open (s := { s with w0 := v }) hs hd, hf]

/-- A command leaves in W0 what it found there, but for a reset, which leaves the same in both. -/
theorem execState_sameButW0 (i : Instr) (v : Word) (s : State) :
    SameButW0 (execState i s) (execState i { s with w0 := v }) := by
  cases i with
  | nop | srst | wctl => rfl
  | seedld m raw =>
    obtain ⟨-, hm⟩ | ⟨k, -, hm⟩ := methodIndex_cases m <;> simp only [execState, hm]
    · rw [raiseError_setW0 _ v s]; rfl
    · rfl
  | nextDraw | dbyte _ | ebyte _ | check _ _ | sealTrial =>
    rw [execState_of_needsTrial (by simp [NeedsTrial, Instr.opcode]),
      execState_of_needsTrial (by simp [NeedsTrial, Instr.opcode]), inTrial_setW0 (trialEffect_setW0 _ v s)]
    rfl

/-- With nothing latched, a command that the port executes depends on W0 in W0 alone, and latches nothing. -/
theorem executeCommand_sameButW0 (word0 word1 v : Word) {s : State} (hp : s.pend = false) :
    ∃ t u, executeCommand word0 word1 s = .next t ∧ executeCommand word0 word1 { s with w0 := v } = .next u ∧
      SameButW0 t u ∧ t.pend = false := by
  rcases hd : decodeCommand word0 word1 with e | i
  · refine ⟨_, _, executeCommand_of_error hd _, executeCommand_of_error hd _, ?_, by simpa using hp⟩
    rw [raiseError_setW0 _ v s]
    rfl
  · obtain ⟨-, -, hpend⟩ := execState_port i s
    exact ⟨_, _, (executeCommand_of_ok hd _).trans (exec_eq i _), (executeCommand_of_ok hd _).trans (exec_eq i _),
      execState_sameButW0 i v s, hpend hp⟩

/-- With nothing latched, a word does the same whatever W0 holds; a word that is latched replaces it. -/
theorem acceptWord_sameButW0 (w v : Word) {s : State} (hp : s.pend = false) :
    ∃ t u, acceptWord w s = .next t ∧ acceptWord w { s with w0 := v } = .next u ∧ SameButW0 t u ∧
      (t.pend = true → t = u) := by
  unfold acceptWord
  split_ifs with herr hw hpend h2
  · exact ⟨_, _, exec_eq .srst _, exec_eq .srst _, rfl, fun _ => rfl⟩
  · exact ⟨_, _, rfl, rfl, rfl, by simp [hp]⟩
  · simp [hp] at hpend
  · exact ⟨_, _, rfl, rfl, rfl, fun _ => rfl⟩
  · obtain ⟨t, u, ht, hu, hsame, hpend⟩ := executeCommand_sameButW0 w 0#32 v hp
    exact ⟨t, u, ht, hu, hsame, by simp [hpend]⟩

/-- What a step finds presented. -/
theorem input_cases (s : State) :
    s.input = [] ∨ (∃ w rest, s.input = .word w :: rest) ∨ ∃ rest, s.input = .rst :: rest := by
  rcases s.input with _ | ⟨w | _, rest⟩
  · exact .inl rfl
  · exact .inr (.inl ⟨w, rest, rfl⟩)
  · exact .inr (.inr ⟨rest, rfl⟩)

end Sys2Proof.Machine

open Sys2Proof Sys2Proof.Machine

/-- Settles O24: no register read shows W0, and of the events that a step can take, none reads it while nothing is
latched. -/
theorem latchIsNeverReadWithoutPend : Obligations.LatchIsNeverReadWithoutPend := by
  intro s v
  refine ⟨fun a => rfl, fun hp => ?_⟩
  obtain hin | ⟨w, rest, hin⟩ | ⟨rest, hin⟩ := input_cases s
  · exact ⟨_, _, step_idle hin, step_idle (s := { s with w0 := v }) hin, rfl, by simp [hp]⟩
  · rw [step_word hin, step_word (s := { s with w0 := v }) hin]
    exact acceptWord_sameButW0 w v (s := { s with input := rest }) hp
  · exact ⟨_, _, step_rst hin, step_rst (s := { s with w0 := v }) hin, rfl, fun _ => rfl⟩

end

section
/-! PROOF. Frames: what each trial command leaves unchanged (spec 40 to 42), and who writes each register in a step
(10 section 1). -/

namespace Sys2Proof.Machine

/-! ### What a trial command leaves unchanged -/

@[simp] theorem trialEffect_ctrl (i : Instr) (s : State) : (trialEffect i s).ctrl = s.ctrl := by
  cases i <;> simp [trialEffect, dbyteEffect, ebyteEffect, checkEffect, sealEffect]
@[simp] theorem trialEffect_w0 (i : Instr) (s : State) : (trialEffect i s).w0 = s.w0 := by
  cases i <;> simp [trialEffect, dbyteEffect, ebyteEffect, checkEffect, sealEffect]
@[simp] theorem trialEffect_table (i : Instr) (s : State) : (trialEffect i s).table = s.table := by
  cases i <;> simp [trialEffect, dbyteEffect, ebyteEffect, checkEffect, sealEffect]

/-- A trial command runs its effect in an open trial, and raises an error outside one. -/
theorem exec_needsTrial_cases {i : Instr} {s t : State} (hi : NeedsTrial i) (h : exec i s = .next t) :
    (s.TrialOpen ∧ t = trialEffect i s) ∨ (¬s.TrialOpen ∧ ∃ e, t = raiseError e s) := by
  rw [exec_next_iff, execState_of_needsTrial hi] at h
  obtain ⟨hs, he⟩ | ⟨hs, hd, he⟩ | ⟨hs, hd, he⟩ := inTrial_cases (trialEffect i) s <;> rw [he] at h
  · exact .inr ⟨by simp [hs], _, h⟩
  · exact .inr ⟨by simp [hd], _, h⟩
  · exact .inl ⟨⟨hs, hd⟩, h⟩

/-! ### Who writes a register -/

/-- A register that neither the port, nor an error, nor WCTL writes, read by `f`: a trial command, SEEDLD or a reset
alone can change it. -/
structure TrialRegister {α : Type} (f : State → α) : Prop where
  port (s : State) (input : List PortEvent) (pend : Bool) (w0 : Word) :
    f { s with input := input, pend := pend, w0 := w0 } = f s
  raise (e : ErrCode) (s : State) : f (raiseError e s) = f s
  enables (s : State) (e : BitVec 2) : f { s with ctrl := e } = f s

/-- A step that changes such a register runs SEEDLD or SRST, or a trial command whose effect changes it. -/
theorem TrialRegister.writer {α : Type} {f : State → α} (hf : TrialRegister f) {s t : State} (h : step s = .next t)
    (hrst : s.input.head? ≠ some .rst) (hne : f t ≠ f s) :
    ExecutesOneOf [.seedld, .srst] s ∨
    ∃ i u, executes s = some i ∧ NeedsTrial i ∧ phase u = phase s ∧ f (trialEffect i u) ≠ f u := by
  cases step_effect h with
  | resets u hr => exact .inl ⟨.srst, hr.resolve_left hrst, by simp [Instr.opcode]⟩
  | opens m raw k rest _ _ hex => exact .inl ⟨_, hex, by simp [Instr.opcode]⟩
  | runs i rest _ _ hex hi =>
    exact .inr ⟨i, { s with input := rest, pend := false }, hex, hi, rfl,
      fun heq => hne (heq.trans (hf.port s rest false s.w0))⟩
  | raises e rest => exact absurd ((hf.raise _ _).trans (hf.port s rest false s.w0)) hne
  | enables e rest => exact absurd ((hf.enables _ e).trans (hf.port s rest false s.w0)) hne
  | keeps rest pend w0 => exact absurd (hf.port s rest pend w0) hne

/-! #### The effects -/

/-- A trial command that changes SEED draws: NEXT, CHECK and SEAL always do, a byte command at an even index. -/
theorem trialEffect_seed_writer {i : Instr} {s : State} (h : (trialEffect i s).seed ≠ s.seed) :
    i.opcode ∈ [Opcode.nextDraw, .check, .sealTrial] ∨ i.opcode ∈ [Opcode.dbyte, .ebyte] ∧ phase s = false := by
  cases i with
  | nop | srst | seedld | wctl => exact absurd rfl h
  | nextDraw | check | sealTrial => simp [Instr.opcode]
  | dbyte | ebyte =>
    refine .inr ⟨by simp [Instr.opcode], Bool.eq_false_iff.mpr fun hph => h ?_⟩
    simp [trialEffect, dbyteEffect, ebyteEffect, stepKey_odd hph]

/-- A trial command that changes RLAST is a byte command at an even index. -/
theorem trialEffect_rlast_writer {i : Instr} {s : State} (h : (trialEffect i s).rlast ≠ s.rlast) :
    i.opcode ∈ [Opcode.dbyte, .ebyte] ∧ phase s = false := by
  cases i with
  | nop | srst | seedld | wctl | nextDraw | check | sealTrial => exact absurd rfl h
  | dbyte | ebyte =>
    refine ⟨by simp [Instr.opcode], Bool.eq_false_iff.mpr fun hph => h ?_⟩
    simp [trialEffect, dbyteEffect, ebyteEffect, stepKey_odd hph]

/-- The checksums and IDX, which the same commands write. -/
def byteCounters (s : State) : Half × Half × Word := (s.cka, s.ckb, s.idx)

/-- Only the byte commands change a checksum or IDX. -/
theorem trialEffect_byteCounters_writer {i : Instr} {s : State}
    (h : byteCounters (trialEffect i s) ≠ byteCounters s) : i.opcode ∈ [Opcode.dbyte, .ebyte] := by
  cases i with
  | nop | srst | seedld | wctl | nextDraw | check | sealTrial => exact absurd rfl h
  | dbyte | ebyte => simp [Instr.opcode]

/-! #### The steps -/

theorem step_seed_writer {s t : State} (h : step s = .next t) (hrst : s.input.head? ≠ some .rst)
    (hne : t.seed ≠ s.seed) : ExecutesOneOf [.seedld, .nextDraw, .check, .sealTrial, .srst] s ∨
      (ExecutesOneOf [.dbyte, .ebyte] s ∧ phase s = false) := by
  have hf : TrialRegister State.seed := ⟨fun _ _ _ _ => rfl, raiseError_seed, fun _ _ => rfl⟩
  obtain hex | ⟨i, u, hex, -, hph, hne⟩ := hf.writer h hrst hne
  · exact .inl (hex.mono (by simp))
  · obtain hi | ⟨hi, heven⟩ := trialEffect_seed_writer hne
    · exact .inl (ExecutesOneOf.mono ⟨i, hex, hi⟩ (by simp))
    · exact .inr ⟨⟨i, hex, hi⟩, hph ▸ heven⟩

theorem step_rlast_writer {s t : State} (h : step s = .next t) (hrst : s.input.head? ≠ some .rst)
    (hne : t.rlast ≠ s.rlast) : ExecutesOneOf [.seedld, .srst] s ∨
      (ExecutesOneOf [.dbyte, .ebyte] s ∧ phase s = false) := by
  have hf : TrialRegister State.rlast := ⟨fun _ _ _ _ => rfl, raiseError_rlast, fun _ _ => rfl⟩
  obtain hex | ⟨i, u, hex, -, hph, hne⟩ := hf.writer h hrst hne
  · exact .inl hex
  · obtain ⟨hi, heven⟩ := trialEffect_rlast_writer hne
    exact .inr ⟨⟨i, hex, hi⟩, hph ▸ heven⟩

theorem step_byteCounters_writer {s t : State} (h : step s = .next t) (hrst : s.input.head? ≠ some .rst)
    (hne : byteCounters t ≠ byteCounters s) : ExecutesOneOf [.seedld, .dbyte, .ebyte, .srst] s := by
  have hf : TrialRegister byteCounters := ⟨fun _ _ _ _ => rfl, by simp [byteCounters], fun _ _ => rfl⟩
  obtain hex | ⟨i, u, hex, -, -, hne⟩ := hf.writer h hrst hne
  · exact hex.mono (by simp)
  · exact ExecutesOneOf.mono ⟨i, hex, trialEffect_byteCounters_writer hne⟩ (by simp)

theorem step_method_writer {s t : State} (h : step s = .next t) (hrst : s.input.head? ≠ some .rst)
    (hne : t.method ≠ s.method) : ExecutesOneOf [.seedld, .srst] s := by
  have hf : TrialRegister State.method := ⟨fun _ _ _ _ => rfl, raiseError_method, fun _ _ => rfl⟩
  obtain hex | ⟨i, u, -, -, -, hne⟩ := hf.writer h hrst hne
  · exact hex
  · exact absurd (trialEffect_method i u) hne

theorem step_result_writer {s t : State} (h : step s = .next t) (hrst : s.input.head? ≠ some .rst)
    (hne : t.result ≠ s.result) :
    ExecutesOneOf [.seedld, .nextDraw, .dbyte, .ebyte, .check, .sealTrial, .srst] s := by
  have hf : TrialRegister State.result := ⟨fun _ _ _ _ => rfl, raiseError_result, fun _ _ => rfl⟩
  obtain hex | ⟨i, u, hex, hi, -⟩ := hf.writer h hrst hne
  · exact hex.mono (by simp)
  · exact ExecutesOneOf.mono ⟨i, hex, hi⟩ (by simp)

/-! #### The port's own state, CTRL and the table -/

/-- A command but SRST leaves W0 as it is. -/
theorem CommandEffect.w0_eq {i : Instr} {s t : State} (h : CommandEffect i s t) (hi : i ≠ .srst) : t.w0 = s.w0 := by
  cases h with
  | resets h => exact absurd h hi
  | opens | enables | keeps => rfl
  | runs | raises => simp

theorem step_ctrl_writer {s t : State} (h : step s = .next t) (hrst : s.input.head? ≠ some .rst)
    (hne : t.ctrl ≠ s.ctrl) : ExecutesOneOf [.wctl, .srst] s := by
  cases step_effect h with
  | resets u hr => exact ⟨.srst, hr.resolve_left hrst, by simp [Instr.opcode]⟩
  | enables e rest _ _ hex => exact ⟨_, hex, by simp [Instr.opcode]⟩
  | opens | runs | raises | keeps => simp at hne

theorem step_table {s t : State} (h : step s = .next t) : t.table = s.table := by
  obtain ⟨-, -, rfl⟩ | ⟨_, -, -, rfl⟩ | ⟨i, _, _, -, -, -, rfl⟩ | ⟨_, _, _, -, -, -, rfl⟩ |
    ⟨_, _, -, -, -, -, -, rfl⟩ | ⟨_, _, -, -, -, -, rfl⟩ := step_cases h
  case inr.inr.inl =>
    obtain ⟨-, htable, -⟩ := execState_port i { s with input := _, pend := _ }
    exact htable
  all_goals simp

/-- Everything a step but rst can do to W0 and PEND: run SRST, complete a command, latch a word0, or nothing. -/
theorem step_latch_cases {s t : State} (h : step s = .next t) (hrst : s.input.head? ≠ some .rst) :
    (ExecutesOneOf [.srst] s ∧ t.pend = false) ∨
    (t.w0 = s.w0 ∧ t.pend = false ∧ s.err = false ∧ ∃ w, s.input.head? = some (.word w)) ∨
    (s.err = false ∧ s.pend = false ∧ t.pend = true ∧ s.input.head? = some (.word t.w0) ∧ isTwoWord t.w0 = true) ∨
    (t.w0 = s.w0 ∧ t.pend = s.pend) := by
  obtain ⟨-, -, rfl⟩ | ⟨_, hin, -, rfl⟩ | ⟨i, w, rest, hin, hex, hsrst, rfl⟩ | ⟨_, w, _, hin, -, herr, rfl⟩ |
    ⟨_, _, hin, -, herr, hp, h2, rfl⟩ | ⟨_, _, -, -, -, -, rfl⟩ := step_cases h
  · exact .inr (.inr (.inr ⟨rfl, rfl⟩))
  · simp [hin] at hrst
  · by_cases hi : i = .srst
    · exact .inl ⟨⟨i, hex, by simp [hi, Instr.opcode]⟩, by simp [hi, execState]⟩
    · have herr : s.err = false := by simpa using mt hsrst hi
      obtain ⟨-, -, hpend⟩ := execState_port i { s with input := rest, pend := if s.err then s.pend else false }
      exact .inr (.inl ⟨(execState_effect i _).w0_eq hi, hpend (by simp [herr]), herr, w, by simp [hin]⟩)
  · exact .inr (.inl ⟨by simp, by simp, herr, w, by simp [hin]⟩)
  · exact .inr (.inr (.inl ⟨herr, hp, rfl, by simp [hin], h2⟩))
  · exact .inr (.inr (.inr ⟨rfl, rfl⟩))

theorem step_w0_writer {s t : State} (h : step s = .next t) (hrst : s.input.head? ≠ some .rst) (hne : t.w0 ≠ s.w0) :
    ExecutesOneOf [.srst] s ∨
      (s.err = false ∧ s.pend = false ∧ t.pend = true ∧ s.input.head? = some (.word t.w0)) := by
  obtain ⟨hex, -⟩ | ⟨hw0, -⟩ | ⟨herr, hp, ht, hin, -⟩ | ⟨hw0, -⟩ := step_latch_cases h hrst
  · exact .inl hex
  · exact absurd hw0 hne
  · exact .inr ⟨herr, hp, ht, hin⟩
  · exact absurd hw0 hne

theorem step_sets_pend {s t : State} (h : step s = .next t) (hrst : s.input.head? ≠ some .rst) (hp : s.pend = false)
    (ht : t.pend = true) :
    s.err = false ∧ ∃ w, s.input.head? = some (.word w) ∧ t.w0 = w ∧
      (w.extractLsb' 28 4 = 2#4 ∨ w.extractLsb' 28 4 = 6#4) := by
  obtain ⟨-, ht'⟩ | ⟨-, ht', -⟩ | ⟨herr, -, -, hin, h2⟩ | ⟨-, ht'⟩ := step_latch_cases h hrst
  · simp [ht'] at ht
  · simp [ht'] at ht
  · exact ⟨herr, _, hin, rfl, (isTwoWord_iff _).mp h2⟩
  · simp [ht', hp] at ht

theorem step_clears_pend {s t : State} (h : step s = .next t) (hrst : s.input.head? ≠ some .rst) (hp : s.pend = true)
    (ht : t.pend = false) :
    ExecutesOneOf [.srst] s ∨ (s.err = false ∧ ∃ w, s.input.head? = some (.word w)) := by
  obtain ⟨hex, -⟩ | ⟨-, -, herr, hw⟩ | ⟨-, -, ht', -⟩ | ⟨-, ht'⟩ := step_latch_cases h hrst
  · exact .inl hex
  · exact .inr ⟨herr, hw⟩
  · simp [ht'] at ht
  · simp [ht', hp] at ht

end Sys2Proof.Machine

open Sys2Proof Sys2Proof.Machine

/-- Settles O35: SEEDLD opens a trial or raises BAD_METHOD; NEXT runs its effect or raises the guard's error. -/
theorem generatorCommandsFrame : Obligations.GeneratorCommandsFrame := by
  refine ⟨fun m raw s t h => ?_, fun s t h => ?_⟩
  · obtain ⟨hm, hk⟩ | ⟨k, -, hk⟩ := methodIndex_cases m <;> simp only [exec, execSeedld, hk] at h <;> cases h
    · have hm' : ¬m.toNat ≤ 4 := by omega
      simp [hm']
    · simp
  · obtain ⟨ho, rfl⟩ | ⟨ho, e, rfl⟩ := exec_needsTrial_cases (by simp [NeedsTrial, Instr.opcode]) h
    · simp [trialEffect, ho]
    · simp [ho]

/-- Settles O43: both byte commands end in the one update of `trialEffect_of_isByteCommand`, or raise an error. -/
theorem payloadCommandsFrame : Obligations.PayloadCommandsFrame := by
  intro i s t hi h
  obtain ⟨ho, rfl⟩ | ⟨ho, e, rfl⟩ := exec_needsTrial_cases hi.needsTrial h
  · obtain ⟨out, pt, heff⟩ := trialEffect_of_isByteCommand hi s
    have hodd : s.idx.getLsbD 0 = true → (stepKey s).seed = s.seed ∧ (stepKey s).rlast = s.rlast := fun hph => by
      simp [stepKey_odd (s := s) hph]
    simpa [heff, ho] using hodd
  · simp [ho]

/-- Settles O47: CHECK and SEAL run `closeTrial` or raise the guard's error. -/
theorem closingCommandsFrame : Obligations.ClosingCommandsFrame := by
  intro i s t hi h
  have hn : NeedsTrial i := by simp only [NeedsTrial, List.mem_cons] at hi ⊢; tauto
  obtain ⟨ho, rfl⟩ | ⟨ho, e, rfl⟩ := exec_needsTrial_cases hn h
  · obtain ⟨matched, res, heff⟩ : ∃ matched res, trialEffect i s = closeTrial matched res s := by
      cases i <;> simp [Instr.opcode] at hi <;> exact ⟨_, _, rfl⟩
    simp [heff, ho]
  · simp [ho]

/-- Settles O20: SEEDLD and SRST write every register of a trial; of the trial commands, those write a register whose
effect changes it. W0 and PEND are the port's. -/
theorem onlyTheListedCommandsWriteARegister : Obligations.OnlyTheListedCommandsWriteARegister := by
  intro s t h hrst
  refine ⟨step_seed_writer h hrst, step_rlast_writer h hrst, fun hne => step_byteCounters_writer h hrst ?_,
    step_method_writer h hrst, step_result_writer h hrst, step_ctrl_writer h hrst, step_w0_writer h hrst,
    step_sets_pend h hrst, step_clears_pend h hrst, step_table h⟩
  rwa [Ne, byteCounters, byteCounters, Prod.mk.injEq, Prod.mk.injEq, not_and_or, not_and_or]

end

section
/-! PROOF. The generator's closed form (40 section 1), and the commands whose whole next state is one update. -/

namespace Sys2Proof.Machine

/-! ### The generator -/

/-- A new generator state and its output hold the same two halves, in opposite order. -/
theorem gen_eq_packHalves (d : MethodDescriptor) (s : Word) :
    ∃ bx cx, gen d s = (packHalves bx cx, packHalves cx bx) := ⟨_, _, rfl⟩

/-- The carry bits are single bits of the state, widened. -/
theorem carry16_getLsbD (s : Word) (k : Nat) : carry16 (s.getLsbD k) = (s.extractLsb' k 1).setWidth 16 := by
  apply BitVec.eq_of_getLsbD_eq
  intro i hi
  cases i <;> simp [carry16]

/-- BX after step 2: the shift takes in the sign bit below s[22:8] (40 R131, R133). -/
theorem shifted_bx (s : Word) :
    (s.extractLsb' 8 16 : Half) <<< 1 ||| carry16 (s.getLsbD 31) = s.extractLsb' 8 15 ++ s.extractLsb' 31 1 := by
  rw [carry16_getLsbD]
  apply BitVec.eq_of_getLsbD_eq
  intro i hi
  simp only [BitVec.getLsbD_or, BitVec.getLsbD_shiftLeft, BitVec.getLsbD_setWidth, BitVec.getLsbD_append,
    BitVec.getLsbD_extractLsb']
  grind

/-- CX after step 2: the shift takes in bit 15 of BX, which is s[23], below eight zeros (40 R131; log 16). -/
theorem shifted_cx (s : Word) :
    (s.extractLsb' 0 8 ++ 0#8 : Half) <<< 1 ||| carry16 (s.getLsbD 23) =
      (s.extractLsb' 0 7 ++ 0#8) ++ s.extractLsb' 23 1 := by
  rw [carry16_getLsbD]
  apply BitVec.eq_of_getLsbD_eq
  intro i hi
  simp only [BitVec.getLsbD_or, BitVec.getLsbD_shiftLeft, BitVec.getLsbD_setWidth, BitVec.getLsbD_append,
    BitVec.getLsbD_extractLsb', BitVec.getLsbD_zero]
  grind

/-- The low byte of one order of the halves is bits 23:16 of the other. -/
theorem lowByte_packHalves (a b : Half) : lowByte (packHalves a b) = (packHalves b a).extractLsb' 16 8 :=
  calc lowByte (packHalves a b) = b.extractLsb' 0 8 := BitVec.extractLsb'_append_eq_of_add_le (Nat.le_add_left 8 8)
    _ = (packHalves b a).extractLsb' 16 8 := (BitVec.extractLsb'_append_eq_of_le (Nat.le_refl 16)).symm

/-- Reading CTRL widens its two bits, and the other thirty read 0 (10 R47). -/
theorem extractLsb'_ctrlWord (s : State) :
    (ctrlWord s).extractLsb' 0 2 = s.ctrl ∧ (ctrlWord s).extractLsb' 2 30 = 0#30 := by
  unfold ctrlWord
  generalize s.ctrl = c
  revert c
  decide

end Sys2Proof.Machine

open Sys2Proof Sys2Proof.Machine

/-- Settles O28: both shifts are appends of fields of the state, and the sums are those of the recurrence. -/
theorem generatorHasItsClosedForm : Obligations.GeneratorHasItsClosedForm := by
  rintro d s _ _ _ _ rfl rfl rfl rfl
  have hd0 : (s.extractLsb' 8 16).getLsbD 15 = s.getLsbD 23 := by simp
  rw [← shifted_bx, ← shifted_cx, ← carry16_getLsbD, ← carry16_getLsbD]
  simp only [gen, hd0]
  rfl

/-- Settles O29: one recurrence gives the two halves of both. -/
theorem generatorOutputIsTheNewStateSwapped : Obligations.GeneratorOutputIsTheNewStateSwapped := by
  intro d s
  obtain ⟨bx, cx, hgen⟩ := gen_eq_packHalves d s
  have hhigh : (packHalves bx cx).extractLsb' 16 16 = bx := highHalf_packHalves bx cx
  have hlow : (packHalves bx cx).extractLsb' 0 16 = cx := lowHalf_packHalves bx cx
  rw [hgen]
  refine ⟨?_, ?_, lowByte_packHalves cx bx⟩
  · rw [hhigh, hlow]
    rfl
  · rw [lowHalf_packHalves, highHalf_packHalves]

/-- Settles O31: an M that names a method opens its trial. -/
theorem seedldOpensATrial : Obligations.SeedldOpensATrial := by
  intro m k raw s hm
  simp only [exec, execSeedld, methodIndex_of_le hm]
  rfl

/-- Settles O34: the guard lets NEXT's effect through, which is one draw with its output in RESULT. -/
theorem nextDrawsOnce : Obligations.NextDrawsOnce := fun _ _ ho =>
  exec_of_trialOpen (by simp [NeedsTrial, Instr.opcode]) ho

/-- Settles O45: the guard lets SEAL's effect through, and CHECK's corrections undo its trailer. -/
theorem sealWritesTheTrailerThatCheckUndoes : Obligations.SealWritesTheTrailerThatCheckUndoes := by
  rintro s s' rf _ _ _ ho hgen rfl rfl
  have hgen' : gen (currentMethod s) s.seed = (s', rf) := hgen
  refine ⟨?_, expectedA_trailerA s.cka rf, expectedB_trailerB s.ckb rf⟩
  rw [exec_of_trialOpen (by simp [NeedsTrial, Instr.opcode]) ho, trialEffect, sealEffect, closeTrial, drawState,
    drawOutput, hgen']
  rfl

/-- Settles O49: NOP's own rule answers the state it found. -/
theorem nopChangesNothing : Obligations.NopChangesNothing := exec_eq .nop

/-- Settles O50: WCTL's own rule writes CTRL[1:0], and reading CTRL widens the two bits. -/
theorem wctlWritesTheTwoEnableBitsAlone : Obligations.WctlWritesTheTwoEnableBitsAlone := by
  intro e s
  refine ⟨exec_eq (.wctl e) s, fun t ht => ?_⟩
  cases (exec_eq (.wctl e) s).symm.trans ht
  exact extractLsb'_ctrlWord { s with ctrl := e }

end

section
/-! PROOF. The host's frame checks, the method loop and the whole decode (20 section 2, 70 section 2). -/

namespace Sys2Proof.Machine

/-! ### The frame checks -/

theorem parseFrame_of_short (preamble : Preamble) {file : List Byte} (h : file.length < 33) :
    parseFrame preamble file = .error .truncatedInput := if_pos h

theorem parseFrame_of_mismatch {preamble : Preamble} {file : List Byte} (hlen : 33 ≤ file.length)
    (h : file.take 25 ≠ preamble.toList) : parseFrame preamble file = .error .formatMismatch := by
  rw [parseFrame, if_neg (by omega), if_pos h]

theorem decodeFile_of_frame {preamble : Preamble} {file : List Byte} {frame : Frame}
    (h : parseFrame preamble file = .ok frame) (s : State) :
    decodeFile preamble file s = methodLoop frame methodOrder s := by
  simp only [decodeFile, h]

theorem decodeFile_of_error {preamble : Preamble} {file : List Byte} {e : FrameError}
    (h : parseFrame preamble file = .error e) (s : State) :
    decodeFile preamble file s = .next (.error (frameFailure e), s) := by
  simp only [decodeFile, h]

/-- A frame error is reported by its own name. -/
theorem eq_frameFailure_iff (e : FrameError) (f : DecodeFailure) :
    f = frameFailure e ↔ e = .truncatedInput ∧ f = .truncatedInput ∨ e = .formatMismatch ∧ f = .formatMismatch := by
  cases e <;> simp [frameFailure]

/-! ### The method loop -/

/-- What the loop reports when a trial ends it. WrongMethod does not (70 R282). -/
def loopEnd : TrialOutcome → Option (Except DecodeFailure (List Byte))
  | .success plaintext => some (.ok plaintext)
  | .fatal => some (.error .fatal)
  | .wrongMethod => none

theorem loopEnd_eq_ok_iff (o : TrialOutcome) (p : List Byte) : loopEnd o = some (.ok p) ↔ o = .success p := by
  cases o <;> simp [loopEnd]

theorem loopEnd_eq_error_iff (o : TrialOutcome) (e : DecodeFailure) :
    loopEnd o = some (.error e) ↔ o = .fatal ∧ e = .fatal := by
  cases o <;> simp [loopEnd, eq_comm]

/-- A trial of these methods ends the loop with this report, and every earlier one gave WrongMethod. -/
def EndsAt (frame : Frame) (ms : List (Fin 5)) (s : State) (o : TrialOutcome) (t : State) : Prop :=
  ∃ pre m post s', ms = pre ++ m :: post ∧ WrongTrials frame pre s s' ∧ runTrial frame m s' = .next (o, t)

/-- The first trial ends the loop, or gives WrongMethod and the rest of the loop ends. -/
theorem endsAt_cons_iff {frame : Frame} {m : Fin 5} {ms : List (Fin 5)} {s t : State} {o : TrialOutcome} :
    EndsAt frame (m :: ms) s o t ↔
      runTrial frame m s = .next (o, t) ∨
      ∃ u, runTrial frame m s = .next (.wrongMethod, u) ∧ EndsAt frame ms u o t := by
  constructor
  · rintro ⟨_ | ⟨m', pre⟩, k, post, s', hms, hwrong, hrun⟩
    · obtain ⟨rfl, -⟩ := List.cons.inj hms
      obtain rfl : s = s' := hwrong
      exact .inl hrun
    · obtain ⟨rfl, htail⟩ := List.cons.inj hms
      obtain ⟨u, hu, hwrong⟩ := hwrong
      exact .inr ⟨u, hu, pre, k, post, s', htail, hwrong, hrun⟩
  · rintro (hrun | ⟨u, hu, pre, k, post, s', rfl, hwrong, hrun⟩)
    · exact ⟨[], m, ms, s, rfl, rfl, hrun⟩
    · exact ⟨m :: pre, k, post, s', rfl, ⟨u, hu, hwrong⟩, hrun⟩

/-- Everything the loop can report. -/
theorem methodLoop_eq_next_iff (frame : Frame) (ms : List (Fin 5)) (s t : State)
    (r : Except DecodeFailure (List Byte)) :
    methodLoop frame ms s = .next (r, t) ↔
      (∃ o, loopEnd o = some r ∧ EndsAt frame ms s o t) ∨ r = .error .unknownFormat ∧ WrongTrials frame ms s t := by
  induction ms generalizing s with
  | nil => simp [methodLoop, EndsAt, WrongTrials, eq_comm]
  | cons m ms ih =>
    simp only [endsAt_cons_iff, methodLoop, WrongTrials]
    rcases hrun : runTrial frame m s with ⟨o, u⟩ | ⟨⟨⟩⟩ | r'
    · cases o with
      | success | fatal => simp [andThen, loopEnd]
      | wrongMethod =>
        simp only [andThen, ih, Host.Outcome.next.injEq, Prod.mk.injEq, true_and, exists_eq_left']
        refine or_congr_left (exists_congr fun o => and_congr_right fun ho => (or_iff_right fun h => ?_).symm)
        simp [loopEnd, ← h.1] at ho
    · simp [andThen]

/-- Everything a decode can report: the refusal of the parser, or what the loop reports. -/
theorem decodeFile_eq_next_iff (preamble : Preamble) (file : List Byte) (s t : State)
    (r : Except DecodeFailure (List Byte)) :
    decodeFile preamble file s = .next (r, t) ↔
      (∃ e, parseFrame preamble file = .error e ∧ r = .error (frameFailure e) ∧ t = s) ∨
      ∃ frame, parseFrame preamble file = .ok frame ∧
        ((∃ o, loopEnd o = some r ∧ EndsAt frame methodOrder s o t) ∨
          r = .error .unknownFormat ∧ WrongTrials frame methodOrder s t) := by
  rcases hp : parseFrame preamble file with e | frame
  · simp [decodeFile_of_error hp, eq_comm]
  · simp [decodeFile_of_frame hp, methodLoop_eq_next_iff]

theorem decodeFile_eq_ok_iff (preamble : Preamble) (file : List Byte) (s t : State) (p : List Byte) :
    decodeFile preamble file s = .next (.ok p, t) ↔
      ∃ frame, parseFrame preamble file = .ok frame ∧ EndsAt frame methodOrder s (.success p) t := by
  simp [decodeFile_eq_next_iff, loopEnd_eq_ok_iff]

theorem decodeFile_eq_fatal_iff (preamble : Preamble) (file : List Byte) (s t : State) :
    decodeFile preamble file s = .next (.error .fatal, t) ↔
      ∃ frame, parseFrame preamble file = .ok frame ∧ EndsAt frame methodOrder s .fatal t := by
  simp [decodeFile_eq_next_iff, loopEnd_eq_error_iff, eq_frameFailure_iff]

theorem decodeFile_eq_unknownFormat_iff (preamble : Preamble) (file : List Byte) (s t : State) :
    decodeFile preamble file s = .next (.error .unknownFormat, t) ↔
      ∃ frame, parseFrame preamble file = .ok frame ∧ WrongTrials frame methodOrder s t := by
  simp [decodeFile_eq_next_iff, loopEnd_eq_error_iff, eq_frameFailure_iff]

/-- The container decoder's failure is never the file's. -/
theorem decodeFile_ne_containerDecodeFailed (preamble : Preamble) (file : List Byte) (s t : State) :
    decodeFile preamble file s ≠ .next (.error .containerDecodeFailed, t) := by
  simp [decodeFile_eq_next_iff, loopEnd_eq_error_iff, eq_frameFailure_iff]

/-! ### A trial that the port is ready for -/

/-- How the host reads the end of a trial (70 R281 step 6). -/
theorem trialOutcome_eq (p : List Byte) (s : State) :
    trialOutcome p s = if s.err then .fatal else if s.matchFlag then .success p else .wrongMethod := by
  obtain ⟨-, -, hmatch, herr⟩ := getLsbD_statusLow s
  have h3 : (readPort 0#3 s).getLsbD 3 = s.err := (getLsbD_statusWord s 3).trans herr
  have h2 : (readPort 0#3 s).getLsbD 2 = s.matchFlag := (getLsbD_statusWord s 2).trans hmatch
  rw [trialOutcome, h3, h2]

/-- The payload of an open trial runs through, and leaves the trial open. -/
theorem streamBytes_dbyte_of_trialReady (p : List Byte) {s : State} (h : s.TrialReady) :
    ∃ out t, streamBytes .dbyte p s = .next (out, t) ∧ t.TrialReady ∧ t.method = s.method ∧ t.table = s.table := by
  induction p generalizing s with
  | nil => exact ⟨[], s, rfl, h, rfl, rfl⟩
  | cons b p ih =>
    obtain ⟨hsend, hready⟩ := h.sendCommand (i := .dbyte b) (.inl rfl)
    obtain ⟨out, t, hrun, ht, hmethod, htable⟩ := ih hready
    exact ⟨_, t, streamBytes_cons hsend hrun, ht, by simpa using hmethod, by simpa using htable⟩

/-- How a trial of method `m` ends that the port was ready for: without an error, with the port ready for the next. -/
structure CleanEnd (m : Fin 5) (s : State) (o : TrialOutcome) (t : State) : Prop where
  err : t.err = false
  pend : t.pend = false
  done : t.done = true
  method : t.method = m
  table : t.table = s.table
  outcome : o = .wrongMethod ∨ (∃ p, o = .success p) ∧ t.matchFlag = true

theorem runTrial_cleanEnd (frame : Frame) (m : Fin 5) {s : State} (herr : s.err = false) (hp : s.pend = false) :
    ∃ o t, runTrial frame m s = .next (o, t) ∧ CleanEnd m s o t := by
  obtain ⟨out, u, hrun, hready, hmethod, htable⟩ :=
    streamBytes_dbyte_of_trialReady frame.payload (startTrial_ready m frame.rawSeed herr)
  have hcheck := sendCommand_check hready frame.checksumA frame.checksumB
  generalize hend : checkEffect _ _ (withWord0 _ u) = t at hcheck
  have herr' : t.err = false := hend ▸ hready.err
  refine ⟨trialOutcome out t, t, ?_, herr', hend ▸ rfl, hend ▸ rfl, hend ▸ hmethod, hend ▸ htable, ?_⟩
  · simp only [runTrial, sendCommand_seedld m frame.rawSeed herr hp, andThen, hrun, hcheck]
  · cases hmatch : t.matchFlag <;> simp [trialOutcome_eq, herr', hmatch]

theorem cleanEnd_of_runTrial {frame : Frame} {m : Fin 5} {s t : State} {o : TrialOutcome} (herr : s.err = false)
    (hp : s.pend = false) (h : runTrial frame m s = .next (o, t)) : CleanEnd m s o t := by
  obtain ⟨o', t', hrun, hend⟩ := runTrial_cleanEnd frame m herr hp
  cases h.symm.trans hrun
  exact hend

/-- Trials that give WrongMethod leave the port ready for the next one. -/
theorem WrongTrials.ready {frame : Frame} {ms : List (Fin 5)} {s t : State} (h : WrongTrials frame ms s t)
    (herr : s.err = false) (hp : s.pend = false) : t.err = false ∧ t.pend = false ∧ t.table = s.table := by
  induction ms generalizing s with
  | nil =>
    obtain rfl : s = t := h
    exact ⟨herr, hp, rfl⟩
  | cons m ms ih =>
    obtain ⟨u, hrun, hrest⟩ := h
    have hend := cleanEnd_of_runTrial herr hp hrun
    rw [← hend.table]
    exact ih hrest hend.err hend.pend

/-! ### The whole decode -/

theorem decodeQuest_eq_next_iff {α : Type} (preamble : Preamble) (secret : Password)
    (container : List Byte → Password → Option α) (file : List Byte) (s t : State) (q : Except DecodeFailure α) :
    decodeQuest preamble secret container file s = .next (q, t) ↔
      ∃ r, decodeFile preamble file s = .next (r, t) ∧ handToContainer container (resolvePassword secret) r = q := by
  rcases hd : decodeFile preamble file s with ⟨r, u⟩ | ⟨⟨⟩⟩ | r'
  · simp [decodeQuest, hd, andThen, and_comm]
  · simp [decodeQuest, hd, andThen]

theorem handToContainer_eq_ok_iff {α : Type} (container : List Byte → Password → Option α) (password : Password)
    (r : Except DecodeFailure (List Byte)) (a : α) :
    handToContainer container password r = .ok a ↔ ∃ p, r = .ok p ∧ container p password = some a := by
  rcases r with e | p
  · simp [handToContainer]
  · cases h : container p password <;> simp [handToContainer, h]

/-- A failure is the container decoder's, or that of the decode. -/
theorem handToContainer_eq_error_iff {α : Type} (container : List Byte → Password → Option α) (password : Password)
    (r : Except DecodeFailure (List Byte)) (e : DecodeFailure) :
    handToContainer container password r = .error e ↔
      r = .error e ∨ e = .containerDecodeFailed ∧ ∃ p, r = .ok p ∧ container p password = none := by
  rcases r with e' | p
  · simp [handToContainer]
  · cases h : container p password <;> simp [handToContainer, h, eq_comm]

end Sys2Proof.Machine

open Sys2Proof Sys2Proof.Machine

/-- Settles O56: each field of a built file stands at the offset where the parser reads it. -/
theorem parsingABuiltFrameReturnsItsFields : Obligations.ParsingABuiltFrameReturnsItsFields :=
  fun preamble payload raw trailer =>
    ⟨length_frameFile preamble raw payload trailer, parseFrame_frameFile preamble raw payload trailer⟩

/-- Settles O57: the parser refuses such a file, and the decode then answers in the state it found. -/
theorem badFramesStartNoTrial : Obligations.BadFramesStartNoTrial := fun preamble _ s =>
  ⟨fun hlen => decodeFile_of_error (parseFrame_of_short preamble hlen) s,
    fun hlen hpre => decodeFile_of_error (parseFrame_of_mismatch hlen hpre) s⟩

/-- Settles O58: the loop's ends, by induction on the methods still to be tried; a trial that the port is ready for
raises nothing. -/
theorem acceptedPlaintextComesFromTheFirstMatchingTrial :
    Obligations.AcceptedPlaintextComesFromTheFirstMatchingTrial := by
  intro preamble file s t
  refine ⟨fun p => ?_, ?_, decodeFile_eq_unknownFormat_iff preamble file s t, fun herr hp => ⟨fun h => ?_, ?_⟩⟩
  · simpa only [exists_and_left, EndsAt, methodOrder] using decodeFile_eq_ok_iff preamble file s t p
  · simpa only [exists_and_left, EndsAt, methodOrder] using decodeFile_eq_fatal_iff preamble file s t
  · obtain ⟨frame, -, pre, m, post, s', -, hwrong, hrun⟩ := (decodeFile_eq_fatal_iff preamble file s t).mp h
    obtain ⟨herr', hp', -⟩ := hwrong.ready herr hp
    simpa using (cleanEnd_of_runTrial herr' hp' hrun).outcome
  · intro frame pre m s' p hwrong hrun
    obtain ⟨herr', hp', htable⟩ := hwrong.ready herr hp
    have hend := cleanEnd_of_runTrial herr' hp' hrun
    exact ⟨by simpa using hend.outcome, hend.done, hend.err, hend.method, hend.table.trans htable⟩

/-- Settles O59: the password is given by its bytes; the container decoder sees a decoded plaintext alone, and no decode
of a file fails as that decoder does. -/
theorem passwordSubtractsElevenPerPosition : Obligations.PasswordSubtractsElevenPerPosition := by
  refine ⟨fun secret i => ?_, fun preamble secret container file s t => ⟨fun a => ?_, ?_, fun e he => ?_⟩⟩
  · simp [resolvePassword]
  · rw [decodeQuest_eq_next_iff]
    simp only [handToContainer_eq_ok_iff]
    exact ⟨fun ⟨_, hd, p, hr, ha⟩ => ⟨p, hr ▸ hd, ha⟩, fun ⟨p, hd, ha⟩ => ⟨_, hd, p, rfl, ha⟩⟩
  · rw [decodeQuest_eq_next_iff]
    simp only [handToContainer_eq_error_iff, true_and]
    constructor
    · rintro ⟨_, hd, rfl | ⟨p, rfl, ha⟩⟩
      · exact absurd hd (decodeFile_ne_containerDecodeFailed preamble file s t)
      · exact ⟨p, hd, ha⟩
    · rintro ⟨p, hd, ha⟩
      exact ⟨_, hd, .inr ⟨p, rfl, ha⟩⟩
  · simp [decodeQuest_eq_next_iff, handToContainer_eq_error_iff, he]

end

section
/-! PROOF. The assembler (30 section 5): what it takes and what it refuses. -/

namespace Sys2Proof.Machine

/-- An operand is taken exactly when it fits. -/
theorem fitField_of_lt {n v : Nat} (h : v < 2 ^ n) : fitField n v = .ok (BitVec.ofNat n v) := if_pos h

theorem fitField_of_not_lt {n v : Nat} (h : ¬v < 2 ^ n) : fitField n v = .error .operandRange := if_neg h

/-- SEEDLD is taken exactly when both operands fit. -/
theorem asmSeedld_eq (m raw : Nat) :
    asmSeedld m raw = if m < 2 ^ 3 ∧ raw < 2 ^ 32 then .ok (.seedld (BitVec.ofNat 3 m) (BitVec.ofNat 32 raw))
      else .error .operandRange := by
  by_cases hm : m < 2 ^ 3
  · by_cases hraw : raw < 2 ^ 32
    · rw [if_pos ⟨hm, hraw⟩, asmSeedld, fitField_of_lt hm, fitField_of_lt hraw]
    · rw [if_neg fun h => hraw h.2, asmSeedld, fitField_of_lt hm, fitField_of_not_lt hraw]
  · rw [if_neg fun h => hm h.1, asmSeedld, fitField_of_not_lt hm]

/-- CHECK is taken exactly when both operands fit. -/
theorem asmCheck_eq (a b : Nat) :
    asmCheck a b = if a < 2 ^ 16 ∧ b < 2 ^ 16 then .ok (.check (BitVec.ofNat 16 a) (BitVec.ofNat 16 b))
      else .error .operandRange := by
  by_cases ha : a < 2 ^ 16
  · by_cases hb : b < 2 ^ 16
    · rw [if_pos ⟨ha, hb⟩, asmCheck, fitField_of_lt ha, fitField_of_lt hb]
    · rw [if_neg fun h => hb h.2, asmCheck, fitField_of_lt ha, fitField_of_not_lt hb]
  · rw [if_neg fun h => ha h.1, asmCheck, fitField_of_not_lt ha]

/-- A byte list is taken exactly when every byte fits, and gives one command per byte, in order. -/
theorem expandBytes_eq (command : Byte → Instr) (bs : List Nat) :
    expandBytes command bs = if ∀ b ∈ bs, b < 2 ^ 8 then .ok (bs.map fun b => command (BitVec.ofNat 8 b))
      else .error .operandRange := by
  induction bs with
  | nil => simp [expandBytes]
  | cons b bs ih =>
    rw [expandBytes, ih]
    by_cases hb : b < 2 ^ 8
    · by_cases hbs : ∀ x ∈ bs, x < 2 ^ 8
      · simp only [List.forall_mem_cons, fitField_of_lt hb, hb, eq_true hbs, and_self, if_true, List.map_cons]
      · simp only [List.forall_mem_cons, fitField_of_lt hb, eq_false hbs, and_false, if_false]
    · simp only [List.forall_mem_cons, fitField_of_not_lt hb, hb, false_and, if_false]

/-- The halves of a word that fits are its quotient and remainder. -/
theorem extractLsb'_ofNat_halves {w : Nat} (h : w < 2 ^ 32) :
    (BitVec.ofNat 32 w).extractLsb' 16 16 = BitVec.ofNat 16 (w / 2 ^ 16) ∧
    (BitVec.ofNat 32 w).extractLsb' 0 16 = BitVec.ofNat 16 (w % 2 ^ 16) := by
  constructor <;> apply BitVec.eq_of_toNat_eq
  · rw [BitVec.extractLsb'_toNat, BitVec.toNat_ofNat, BitVec.toNat_ofNat, Nat.mod_eq_of_lt h, Nat.shiftRight_eq_div_pow]
  · rw [BitVec.extractLsb'_toNat, BitVec.toNat_ofNat, BitVec.toNat_ofNat, Nat.mod_eq_of_lt h, Nat.shiftRight_zero,
      Nat.mod_mod]

end Sys2Proof.Machine

open Sys2Proof Sys2Proof.Machine

/-- Settles O60: each statement checks its operands with `fitField`, which refuses exactly what does not fit. -/
theorem assemblerChecksFieldsAndExpands : Obligations.AssemblerChecksFieldsAndExpands := by
  refine ⟨⟨rfl, rfl, rfl, rfl⟩, fun m raw => ?_, fun b => ?_, fun b => ?_, fun a b => ?_, fun e => ?_,
    expandBytes_eq .dbyte, expandBytes_eq .ebyte, fun w => ?_, fun m raw bs a b => ?_⟩
  · rw [assembleStatement, asmSeedld_eq]
    split_ifs <;> rfl
  · rw [assembleStatement, expandBytes_eq]
    simp only [List.forall_mem_singleton, List.map_singleton]
  · rw [assembleStatement, expandBytes_eq]
    simp only [List.forall_mem_singleton, List.map_singleton]
  · rw [assembleStatement, asmCheck_eq]
    split_ifs <;> rfl
  · rw [assembleStatement, fitField]
    split_ifs <;> rfl
  · rw [assembleStatement]
    split_ifs with hw
    · obtain ⟨hhigh, hlow⟩ := extractLsb'_ofNat_halves hw
      rw [fitField_of_lt hw, Except.map, hhigh, hlow]
    · rw [fitField_of_not_lt hw, Except.map]
  · rw [assembleStatement, asmSeedld_eq, expandBytes_eq, asmCheck_eq]
    by_cases hfirst : m < 2 ^ 3 ∧ raw < 2 ^ 32
    · by_cases hbytes : ∀ x ∈ bs, x < 2 ^ 8
      · by_cases hlast : a < 2 ^ 16 ∧ b < 2 ^ 16
        · simp only [hfirst, eq_true hbytes, hlast, and_self, if_true]
        · simp only [hfirst, eq_true hbytes, hlast, and_self, and_false, if_true, if_false]
      · simp only [hfirst, eq_false hbytes, and_self, and_false, false_and, if_true, if_false]
    · simp only [hfirst, false_and, if_false]

end
